-- ==== Sys2Proof/Word.lean ====
section
/-! DEFINITION. The word types of the block and the level of a pin (00_scope.md R10, R11). -/

namespace Sys2Proof

/-- A command word or a result word (30_encoding.md R71, R77). -/
abbrev Word := BitVec 32

/-- A 24-bit raw value: the width of an accumulator and of a history element (10_state.md R22, R23). -/
abbrev Raw := BitVec 24

/-- The level of a pin (00_scope.md R11). -/
inductive Level where
  | low
  | high
  deriving DecidableEq, Repr, Inhabited

end Sys2Proof
end

