-- ==== Sys2Proof/Syntax.lean ====
section
/-! DEFINITION. The ten operations of the block, one constructor per row of the opcode table (30_encoding.md R72). -/

namespace Sys2Proof

/-- The operand `ch` (30_encoding.md R75). -/
inductive Channel where
  | a
  | b
  deriving DecidableEq, Repr

/-- The operand `gain` as encoded: three gains and the code 3, which names no gain (30_encoding.md R75). -/
inductive GainCode where
  | g128
  | g64
  | g32
  | code3
  deriving DecidableEq, Repr

/-- An operation with its operands (30_encoding.md R71, R72). A line index is a number; a raw value is 24 bits. -/
inductive Instr where
  /-- CONSTRUCT, 41_chgain_encoder.md R132. -/
  | construct (dbg : Bool) (ch : Channel) (gain : GainCode)
  /-- SETCFG, 41_chgain_encoder.md R133. -/
  | setcfg (ch : Channel) (gain : GainCode)
  /-- PREPARE, 40_sequencer.md R100. -/
  | prepare
  /-- PULSE, 40_sequencer.md R101. -/
  | pulse
  /-- WRGAIN, 41_chgain_encoder.md R134. -/
  | wrgain
  /-- READ, 40_sequencer.md R104. -/
  | read
  /-- RESETT, 42_accumulator.md R151. -/
  | resett (line : Nat)
  /-- SAMPLE, 42_accumulator.md R152. -/
  | sample (line : Nat)
  /-- FINAL, 42_accumulator.md R153. -/
  | final (line : Nat)
  /-- DECODE, 43_decoder.md R170. -/
  | decode (raw : Raw)
  deriving DecidableEq, Repr

end Sys2Proof
end

