-- ==== Sys2Proof/WellFormed.lean ====
section
/-! DEFINITION. Which instructions have an encoding: a line index must fit its 24-bit field (30_encoding.md R71, R74). -/

namespace Sys2Proof

/-- The width bound of format L; every operand of the other formats fits its field by its type. -/
def Instr.wellFormed : Instr → Bool
  | .construct _ _ _ => true
  | .setcfg _ _ => true
  | .prepare => true
  | .pulse => true
  | .wrgain => true
  | .read => true
  | .resett line => decide (line < 2 ^ 24)
  | .sample line => decide (line < 2 ^ 24)
  | .final line => decide (line < 2 ^ 24)
  | .decode _ => true

end Sys2Proof
end

