-- ==== Sys2Proof/Decode.lean ====
section
/-! DEFINITION. The command word: decoder (total on every 32-bit word, rejecting by name), encoder, and the opcode map
(30_encoding.md R71 to R78, R83, R84). -/

namespace Sys2Proof

/-- Why a word is illegal: the five cases of 30_encoding.md R78 (b). -/
inductive IllegalWord where
  /-- `opcode` is one of 0x0, 0x7, 0xC, 0xD, 0xE, 0xF. -/
  | reservedOpcode
  /-- `zero != 0`. -/
  | zeroField
  /-- The format is K and `operand != 0`. -/
  | operandNotZero
  /-- CONSTRUCT with `operand[23:4] != 0`. -/
  | constructReserved
  /-- SETCFG with `operand[23:3] != 0`. -/
  | setcfgReserved
  deriving DecidableEq, Repr

/-- Every word is legal or illegal (30_encoding.md R78). -/
inductive Decoded where
  | legal (i : Instr)
  | illegal (why : IllegalWord)
  deriving DecidableEq, Repr

/-- `word[31:28]` (30_encoding.md R71). -/
def opcodeField (w : Word) : BitVec 4 := w.extractLsb' 28 4

/-- `word[27:24]` (30_encoding.md R71). -/
def zeroField (w : Word) : BitVec 4 := w.extractLsb' 24 4

/-- `word[23:0]` (30_encoding.md R71). -/
def operandField (w : Word) : BitVec 24 := w.extractLsb' 0 24

/-- Bit `dbg` of format C (30_encoding.md R75). -/
def dbgField (o : BitVec 24) : Bool := o.getLsbD 3

/-- Bit `ch` of format C: 0 = A, 1 = B (30_encoding.md R75). -/
def channelField (o : BitVec 24) : Channel := if o.getLsbD 2 then .b else .a

/-- Bits `gain` of format C: 0 = 128, 1 = 64, 2 = 32, 3 = no gain (30_encoding.md R75). -/
def gainField (o : BitVec 24) : GainCode :=
  match o.getLsbD 1, o.getLsbD 0 with
  | false, false => .g128
  | false, true => .g64
  | true, false => .g32
  | true, true => .code3

/-- A format K word: the operand must be all 0 (30_encoding.md R71, R73). -/
def decodeK (i : Instr) (o : BitVec 24) : Decoded :=
  if o = 0 then .legal i else .illegal .operandNotZero

/-- The decoder: one decoding, no mode (30_encoding.md R72, R78, R84). -/
def decode (w : Word) : Decoded :=
  if zeroField w = 0 then
    match (opcodeField w).toNat with
    | 0x1 =>
      if (operandField w).extractLsb' 4 20 = 0 then
        .legal (.construct (dbgField (operandField w)) (channelField (operandField w)) (gainField (operandField w)))
      else .illegal .constructReserved
    | 0x2 =>
      if (operandField w).extractLsb' 3 21 = 0 then
        .legal (.setcfg (channelField (operandField w)) (gainField (operandField w)))
      else .illegal .setcfgReserved
    | 0x3 => decodeK .prepare (operandField w)
    | 0x4 => decodeK .pulse (operandField w)
    | 0x5 => decodeK .wrgain (operandField w)
    | 0x6 => decodeK .read (operandField w)
    | 0x8 => .legal (.resett (operandField w).toNat)
    | 0x9 => .legal (.sample (operandField w).toNat)
    | 0xA => .legal (.final (operandField w).toNat)
    | 0xB => .legal (.decode (operandField w))
    | _ => .illegal .reservedOpcode
  else .illegal .zeroField

/-- The host's view of the decoder on a word of `nbits` bits; every bit above is 0. -/
def decodeTableWord (nbits w : Nat) : Option Instr :=
  match decode (BitVec.ofNat 32 (w % 2 ^ nbits)) with
  | .legal i => some i
  | .illegal _ => none

/-- The code of `ch` (30_encoding.md R75). -/
def channelBit : Channel → BitVec 1
  | .a => 0
  | .b => 1

/-- The code of `gain` (30_encoding.md R75). -/
def gainBits : GainCode → BitVec 2
  | .g128 => 0
  | .g64 => 1
  | .g32 => 2
  | .code3 => 3

/-- The three fields every format has: `opcode || zero || operand` (30_encoding.md R71). -/
def assemble (opcode : BitVec 4) (operand : BitVec 24) : Word := opcode ++ 0#4 ++ operand

/-- Format K: an operand of 24 zeros (30_encoding.md R73). -/
def formatK (opcode : BitVec 4) : Word := assemble opcode 0#24

/-- The operand of format C: 20 zeros and `dcgg` (30_encoding.md R75). -/
def operandC (dbg : Bool) (ch : Channel) (gain : GainCode) : BitVec 24 :=
  0#20 ++ BitVec.ofBool dbg ++ channelBit ch ++ gainBits gain

/-- Format C (30_encoding.md R75). -/
def formatC (opcode : BitVec 4) (dbg : Bool) (ch : Channel) (gain : GainCode) : Word :=
  assemble opcode (operandC dbg ch gain)

/-- Format L: the 24-bit line index (30_encoding.md R74). -/
def formatL (opcode : BitVec 4) (line : Nat) : Word := assemble opcode (BitVec.ofNat 24 line)

/-- Format D: the raw value, bit 23 of it at word bit 23 (30_encoding.md R76). -/
def formatD (opcode : BitVec 4) (raw : Raw) : Word := assemble opcode raw

/-- The encoder, from the formats and opcodes of 30_encoding.md R72 to R76. -/
def encode : Instr → Word
  | .construct dbg ch gain => formatC 0x1 dbg ch gain
  | .setcfg ch gain => formatC 0x2 false ch gain
  | .prepare => formatK 0x3
  | .pulse => formatK 0x4
  | .wrgain => formatK 0x5
  | .read => formatK 0x6
  | .resett line => formatL 0x8 line
  | .sample line => formatL 0x9 line
  | .final line => formatL 0xA line
  | .decode raw => formatD 0xB raw

/-- A row of the opcode map (30_encoding.md R72): a word `w` selects it when `w & mask = pattern`. -/
structure OpRow where
  mnemonic : String
  pattern : Word
  mask : Word
  deriving DecidableEq, Repr

/-- The word selects the row (30_encoding.md R72). -/
def OpRow.selects (r : OpRow) (w : Word) : Bool := w &&& r.mask = r.pattern

/-- The row an instruction stands for, its match and mask copied from the table of 30_encoding.md R72. -/
def Instr.row : Instr → OpRow
  | .construct _ _ _ => ⟨"CONSTRUCT", 0x10000000, 0xFFFFFFF0⟩
  | .setcfg _ _ => ⟨"SETCFG", 0x20000000, 0xFFFFFFF8⟩
  | .prepare => ⟨"PREPARE", 0x30000000, 0xFFFFFFFF⟩
  | .pulse => ⟨"PULSE", 0x40000000, 0xFFFFFFFF⟩
  | .wrgain => ⟨"WRGAIN", 0x50000000, 0xFFFFFFFF⟩
  | .read => ⟨"READ", 0x60000000, 0xFFFFFFFF⟩
  | .resett _ => ⟨"RESETT", 0x80000000, 0xFF000000⟩
  | .sample _ => ⟨"SAMPLE", 0x90000000, 0xFF000000⟩
  | .final _ => ⟨"FINAL", 0xA0000000, 0xFF000000⟩
  | .decode _ => ⟨"DECODE", 0xB0000000, 0xFF000000⟩

/-- The ten rows of the opcode map (30_encoding.md R72), one instruction of each naming it. -/
def opcodeRows : List OpRow :=
  [Instr.row (.construct false .a .g128), Instr.row (.setcfg .a .g128), Instr.row .prepare, Instr.row .pulse,
    Instr.row .wrgain, Instr.row .read, Instr.row (.resett 0), Instr.row (.sample 0), Instr.row (.final 0),
    Instr.row (.decode 0)]

end Sys2Proof
end

