-- ==== Sys2Proof/Config.lean ====
section
/-! DEFINITION. The named constants of the block (00_scope.md R8) and the free values: values the spec leaves open, as
opaque constants without a body, so that a claim holds whatever they are. -/

namespace Sys2Proof.Config

/-- `DATA_BITS`: data pulses per cycle (00_scope.md R8). -/
def dataBits : Nat := 24

/-- `POLL_MAX`: polls of the ready-wait (00_scope.md R8). -/
def pollMax : Nat := 20

/-- `GUARD` in nanoseconds: 60 microseconds (00_scope.md R8). -/
def guardNs : Nat := 60000

/-- The bound of NLINES (00_scope.md R8). -/
def maxLines : Nat := 2 ^ 24

/-- The number of data lines of the reset instance. DESIGN CHOICE (log 1): NLINES is OPEN. -/
def resetLines : Nat := 2

/-- The level the n-th `PinRead` of a run draws when the script does not give it (00_scope.md R13; log 3). -/
opaque freeLevel : Nat → Level

/-- The number the n-th `Elapsed` of a run draws when the script does not give it (00_scope.md R13; log 3). -/
opaque freeElapsed : Nat → Nat

/-- `acc[i]` after CONSTRUCT: any 24-bit value (10_state.md R39; log 6). -/
opaque freeAcc : Nat → Raw

/-- `offset[i]` after CONSTRUCT (10_state.md R31, R39; log 7). -/
opaque freeOffset : Nat → Nat

/-- `ratio[i]` after CONSTRUCT (10_state.md R31, R39; log 7). -/
opaque freeRatio : Nat → Nat

/-- `poll` while the phase is Idle: any value of its range (10_state.md R30; log 8). -/
opaque freePoll : Nat → Fin 21

/-- `bit` while the phase is Idle: any value of its range (10_state.md R30; log 8). -/
opaque freeBit : Nat → Fin 25

/-- `tp` while the phase is Idle: any value of its range (10_state.md R30; log 8). -/
opaque freeTp : Nat → Fin 4

end Sys2Proof.Config
end

