-- ==== Sys2Proof/Machine/State.lean ====
section
/-! DEFINITION. The state of the block (10_state.md R20), the instance's parameters (00_scope.md R8), the environment's
draws (00_scope.md R13), the observations (20_memory.md R68), and the state after power-on (10_state.md R39). -/

namespace Sys2Proof.Machine

/-- `CFG`: exactly three legal values (10_state.md R25). -/
inductive Cfg where
  | a128
  | a64
  | b32
  deriving DecidableEq, Repr

/-- The sequencer's position (10_state.md R29). -/
inductive Phase where
  | idle
  | preparing
  | sampling
  | finalizing
  | settingGain
  | pulsing
  deriving DecidableEq, Repr

/-- The commands that leave Idle (40_sequencer.md R110). -/
inductive Running where
  | prepare
  | pulse
  | wrgain
  | read
  deriving DecidableEq, Repr

/-- The causes (60_exceptions.md R190). -/
inductive Cause where
  | ok
  | notReady
  | timingViolation
  | configError
  | busy
  | illegalCommand
  | historyOverflow
  | notConstructed
  deriving DecidableEq, Repr

/-- An element of `signed_hist[i]`: an integer or the marker INVALID (10_state.md R24). -/
inductive SignedEntry where
  | int (v : Int)
  | invalid
  deriving DecidableEq, Repr

/-- A calibration value of abstract type: a token that no rule reads (10_state.md R31; log 7). -/
structure Calib where
  token : Nat
  deriving DecidableEq, Repr

/-- Everything private to one data line (10_state.md R20, 60_exceptions.md R212). -/
structure Line where
  /-- `acc[i]`, 10_state.md R22. -/
  acc : Raw
  /-- `raw_hist[i]`, oldest first, 10_state.md R23. -/
  rawHist : List Raw
  /-- `signed_hist[i]`, oldest first, 10_state.md R24. -/
  signedHist : List SignedEntry
  /-- `offset[i]`, 10_state.md R31. -/
  offset : Calib
  /-- `ratio[i]`, 10_state.md R31. -/
  ratio : Calib
  deriving DecidableEq, Repr

/-- `res`: a valid bit and a 24-bit two's-complement value (10_state.md R32). -/
structure Res where
  valid : Bool
  value : Raw
  deriving DecidableEq, Repr

/-- A result as given on the result port (00_scope.md R14, 30_encoding.md R77). -/
structure Answer where
  ok : Bool
  cause : Cause
  res : Res
  deriving DecidableEq, Repr

/-- A diagnostic record (60_exceptions.md R216). -/
inductive Diag where
  | timingViolation (elapsed : Nat)
  | invalidSample (line : Nat) (raw : Raw)
  | values (line : Nat) (raw : Raw) (signed : SignedEntry)
  deriving DecidableEq, Repr

/-- A pin of the block (20_memory.md R50). -/
inductive Pin where
  | clk
  | data (line : Nat)
  deriving DecidableEq, Repr

/-- A pin direction (00_scope.md R12). -/
inductive Dir where
  | input
  | output
  deriving DecidableEq, Repr

/-- An event of the trace (20_memory.md R68): `DIR(pin,dir)`, `W(v)`, `R(i)=b`, `WAIT`, `E=e`. -/
inductive Event where
  | dir (pin : Pin) (d : Dir)
  | write (v : Level)
  | read (line : Nat) (b : Level)
  | wait
  | elapsed (e : Nat)
  deriving DecidableEq, Repr

/-- The instance's static parameters besides NLINES (00_scope.md R8). -/
structure Params where
  /-- `HDEPTH`: none is unbounded. -/
  hdepth : Option Nat
  /-- `TIME_RES` is `resNum / resDen` nanoseconds. -/
  resNum : Nat
  resDen : Nat
  deriving DecidableEq, Repr

/-- The spec's defaults (00_scope.md R8): unbounded histories, 1 ns. -/
def Params.default : Params := { hdepth := none, resNum := 1, resDen := 1 }

/-- The environment's draws (00_scope.md R13): what is scripted, and how many of each kind were drawn (log 3, log 4). -/
structure Draws where
  levels : List Level
  times : List Nat
  levelCount : Nat
  timeCount : Nat
  deriving DecidableEq, Repr

/-- When the host presents a word, counted from the word before it (00_scope.md R13 (c); log 10). -/
inductive Arrival where
  /-- It waits until no operation is in progress. -/
  | whenIdle
  /-- After this many more turns of the operation in progress, 0 being at once; in Idle if the operation ends before. -/
  | afterTurns (n : Nat)
  deriving DecidableEq, Repr

/-- A word the host presents (30_encoding.md R70), and when. -/
structure Presented where
  word : Word
  arrival : Arrival
  deriving DecidableEq, Repr

/-- The state. First the block's own (10_state.md R20), then the parameters, then the model's inputs and observations. -/
structure State where
  /-- 10_state.md R21. -/
  constructed : Bool
  /-- 10_state.md R25. -/
  cfg : Cfg
  /-- 10_state.md R27. -/
  dbg : Bool
  /-- One per data line, in line order; NLINES is their number. -/
  lines : List Line
  /-- 10_state.md R28. -/
  clk : Level
  /-- 10_state.md R29. -/
  phase : Phase
  /-- 10_state.md R30. -/
  poll : Nat
  /-- 10_state.md R30. -/
  bit : Nat
  /-- 10_state.md R30. -/
  tp : Nat
  /-- 10_state.md R32. -/
  ok : Bool
  /-- 10_state.md R32. -/
  cause : Cause
  /-- 10_state.md R32. -/
  res : Res
  /-- 10_state.md R35. -/
  diag : List Diag
  /-- Static parameters; no step writes them (10_state.md R37). -/
  params : Params
  /-- Which command is in progress; none in Idle (log 9). -/
  running : Option Running
  /-- The event trace, oldest first (20_memory.md R68). -/
  trace : List Event
  /-- The results given on the result port, oldest first (20_memory.md R68). -/
  answers : List Answer
  /-- What the host presents from now on, in order (00_scope.md R13). -/
  port : List Presented
  /-- What the environment answers from now on (00_scope.md R13). -/
  env : Draws
  /-- The counter the unspecified register values are free values of (log 8). -/
  fresh : Nat
  deriving DecidableEq, Repr

/-- No step stops the block: "The block never halts" (70_reset_and_hazards.md R233). There is no fault (log 17). -/
inductive Fault where
  deriving DecidableEq, Repr

/-- Why a step gives no meaning. -/
inductive Refusal where
  /-- Raised only by an arm of `exec` whose instruction has no meaning yet; no arm raises it. Safe. -/
  | notModelled (mnemonic : String)
  deriving DecidableEq, Repr

/-- What a meaning and a step answer. -/
abbrev Result := Host.Outcome State Fault Refusal

/-- A line at power-on. DESIGN CHOICE (log 5): the spec leaves every value of it unspecified. -/
def Line.powerOn : Line := { acc := 0, rawHist := [], signedHist := [], offset := ⟨0⟩, ratio := ⟨0⟩ }

/-- An instance of `n` lines and parameters `p` right after power-on (10_state.md R39, 70_reset_and_hazards.md R230):
`constructed`, `phase` and `diag` are the spec's, every other register is the model's choice (log 5). -/
def State.powerOn (p : Params) (n : Nat) : State where
  constructed := false
  cfg := .a128
  dbg := false
  lines := List.replicate n Line.powerOn
  clk := .low
  phase := .idle
  poll := 0
  bit := 0
  tp := 0
  ok := true
  cause := .ok
  res := { valid := false, value := 0 }
  diag := []
  params := p
  running := none
  trace := []
  answers := []
  port := []
  env := { levels := [], times := [], levelCount := 0, timeCount := 0 }
  fresh := 0

/-- The machine right after reset: power-on of the instance named in log 1 and log 2. -/
def State.reset : State := State.powerOn Params.default Config.resetLines

end Sys2Proof.Machine
end

