-- ==== Sys2Proof/Machine/Operands.lean ====
section
/-! DEFINITION. The operand forms: the configuration value and its validation (41_chgain_encoder.md R130, R131), the line
index (20_memory.md R59), and the parameters' tests (HDEPTH, GUARD in units of TIME_RES). -/

namespace Sys2Proof.Machine

/-- The bit of a level: LOW = 0, HIGH = 1 (00_scope.md R11; PRESUMED by the spec itself, log 15). -/
def levelBit : Level → Raw
  | .low => 0
  | .high => 1

/-- `Valid(ch, gain)` and the configuration the pair names: the eight rows of 41_chgain_encoder.md R131. -/
def cfgOf : Channel → GainCode → Option Cfg
  | .a, .g128 => some .a128
  | .a, .g64 => some .a64
  | .a, .g32 => none
  | .a, .code3 => none
  | .b, .g128 => none
  | .b, .g64 => none
  | .b, .g32 => some .b32
  | .b, .code3 => none

/-- `CFG.ch` (10_state.md R25). -/
def Cfg.channel : Cfg → Channel
  | .a128 => .a
  | .a64 => .a
  | .b32 => .b

/-- `CFG.gain` (10_state.md R25). -/
def Cfg.gain : Cfg → GainCode
  | .a128 => .g128
  | .a64 => .g64
  | .b32 => .g32

/-- The binary layout of `CFG`: `ch` at bit 2, `gain` at bits 1:0 (10_state.md R26). -/
def Cfg.bits : Cfg → BitVec 3
  | .a128 => 0b000
  | .a64 => 0b001
  | .b32 => 0b110

/-- `N(CFG)`, the number of trailing pulses (41_chgain_encoder.md R130). -/
def Cfg.pulses : Cfg → Nat
  | .a128 => 1
  | .b32 => 2
  | .a64 => 3

/-- NLINES (00_scope.md R8; log 1). -/
def State.nlines (s : State) : Nat := s.lines.length

/-- BUSY (10_state.md R33). -/
def State.busy (s : State) : Bool := decide (s.phase ≠ .idle)

/-- `e >= GUARD`, with `e` in units of TIME_RES (40_sequencer.md R101, 00_scope.md R8; log 19). -/
def Params.trips (p : Params) (e : Nat) : Bool := decide (Config.guardNs * p.resDen ≤ e * p.resNum)

/-- A history of this length is full: HDEPTH is finite and reached (60_exceptions.md R199; log 12). -/
def Params.full (p : Params) (length : Nat) : Bool :=
  match p.hdepth with
  | none => false
  | some d => decide (d ≤ length)

/-- The history of line `i` is full (60_exceptions.md R199). -/
def State.lineFull (s : State) (i : Nat) : Bool :=
  match s.lines[i]? with
  | none => false
  | some l => s.params.full l.rawHist.length

/-- Some history is full: READ's entry test (40_sequencer.md R103). -/
def State.anyFull (s : State) : Bool := s.lines.any fun l => s.params.full l.rawHist.length

end Sys2Proof.Machine
end

