-- ==== Sys2Proof/Machine/Flags.lean ====
section
/-! DEFINITION. The result registers `ok`, `cause`, `res`: their codes, their one writer, and the result word
(10_state.md R32, 60_exceptions.md R190, 30_encoding.md R77). The block has no other flag. -/

namespace Sys2Proof.Machine

/-- The 3-bit code of a cause (60_exceptions.md R190). -/
def Cause.code : Cause → BitVec 3
  | .ok => 0
  | .notReady => 1
  | .timingViolation => 2
  | .configError => 3
  | .busy => 4
  | .illegalCommand => 5
  | .historyOverflow => 6
  | .notConstructed => 7

/-- A result word: `ok` at 31, `cause` at 30:28, zeros at 27:25, `res_valid` at 24, `res` at 23:0 (30_encoding.md R77). -/
def Answer.word (a : Answer) : Word :=
  BitVec.ofBool a.ok ++ a.cause.code ++ 0#3 ++ BitVec.ofBool a.res.valid ++ a.res.value

/-- What the result port gives for an operation that ended with cause `c`: `ok = 1` exactly when `cause` is OK
(10_state.md R32). -/
def State.answer (s : State) (c : Cause) : Answer := { ok := decide (c = .ok), cause := c, res := s.res }

/-- The end of an operation writes the result registers, and the host sees the result (10_state.md R32, 20_memory.md R68). -/
def State.complete (s : State) (c : Cause) : State :=
  { s with ok := decide (c = .ok), cause := c, answers := s.answers ++ [s.answer c] }

/-- The result word the host reads (30_encoding.md R77). -/
def State.resultWord (s : State) : Word := Answer.word { ok := s.ok, cause := s.cause, res := s.res }

end Sys2Proof.Machine
end

