-- ==== Sys2Proof/Machine/Ops.lean ====
section
/-! DEFINITION. The shared operations: draws, pins, the fan-out over lines, diagnostics, the history store, the movement of
`phase`, refusals and the abort path (00_scope.md R12, 20_memory.md, 60_exceptions.md). -/

namespace Sys2Proof.Machine

/-! ### Draws (00_scope.md R13) -/

/-- The level that the k-th `PinRead` from now on draws: the script's, or a free value (log 3). -/
def Draws.level (d : Draws) (k : Nat) : Level := d.levels.getD k (Config.freeLevel (d.levelCount + k))

/-- The number that the k-th `Elapsed` from now on draws: the script's, or a free value (log 3). -/
def Draws.time (d : Draws) (k : Nat) : Nat := d.times.getD k (Config.freeElapsed (d.timeCount + k))

/-- The draws after `nl` levels and `nt` elapsed times were consumed, in order (00_scope.md R14; log 4). -/
def Draws.skip (d : Draws) (nl nt : Nat) : Draws :=
  { levels := d.levels.drop nl, times := d.times.drop nt, levelCount := d.levelCount + nl, timeCount := d.timeCount + nt }

/-! ### The event trace and the pins (20_memory.md R52 to R54, R66 to R68) -/

/-- An event is appended to the trace (20_memory.md R68). -/
def State.emit (s : State) (e : Event) : State := { s with trace := s.trace ++ [e] }

/-- `PinWrite(CLK, v)` (20_memory.md R52). -/
def State.pinWrite (s : State) (v : Level) : State := { s with clk := v }.emit (.write v)

/-- `PinRead(D[i])` (20_memory.md R53). -/
def State.pinRead (s : State) (i : Nat) : Level × State :=
  (s.env.level 0, { s with env := s.env.skip 1 0 }.emit (.read i (s.env.level 0)))

/-- `PinDir(pin, dir)`: an event and no state (20_memory.md R54). -/
def State.pinDir (s : State) (pin : Pin) (d : Dir) : State := s.emit (.dir pin d)

/-- `Wait(POLL_INTERVAL)`: an event and no state (20_memory.md R66). -/
def State.wait (s : State) : State := s.emit .wait

/-- `Elapsed()` (20_memory.md R67). -/
def State.elapsed (s : State) : Nat × State :=
  (s.env.time 0, { s with env := s.env.skip 0 1 }.emit (.elapsed (s.env.time 0)))

/-- `Diag(kind, ...)`: a record if `DBG = 1` (60_exceptions.md R216). -/
def State.emitDiag (s : State) (r : Diag) : State := if s.dbg then { s with diag := s.diag ++ [r] } else s

/-! ### The lines (20_memory.md R60, 60_exceptions.md R212) -/

/-- `for i in 0 .. NLINES-1: f(i)`, in line order (40_sequencer.md R104). -/
def State.eachLine (s : State) (f : State → Nat → State) : State := (List.range s.nlines).foldl f s

/-- Line `i` alone is changed; a line that does not exist is no line. -/
def State.setLine (s : State) (i : Nat) (f : Line → Line) : State := { s with lines := s.lines.modify i f }

/-- `HistAppend(i, raw, s)` on the line: both appends at the same new index, in one step (20_memory.md R57). -/
def Line.append (l : Line) (raw : Raw) (signed : SignedEntry) : Line :=
  { l with rawHist := l.rawHist ++ [raw], signedHist := l.signedHist ++ [signed] }

/-! ### The history store as the host reads it (20_memory.md R50, R56) -/

/-- The raw value at location (line `i`, index `k`), none where there is none. -/
def State.rawAt (s : State) (i k : Nat) : Option Raw := s.lines[i]?.bind fun l => l.rawHist[k]?

/-- The signed entry at location (line `i`, index `k`), none where there is none. -/
def State.signedAt (s : State) (i k : Nat) : Option SignedEntry := s.lines[i]?.bind fun l => l.signedHist[k]?

/-- `acc[i]`, none where there is no such line. -/
def State.accAt (s : State) (i : Nat) : Option Raw := s.lines[i]?.map Line.acc

/-- The host can read the histories: a controller exists, without which they are unreadable (10_state.md R39), and the phase
is Idle (20_memory.md R56). DESIGN CHOICE (log 21): R56 is silent on a read outside Idle, and the model's readers give none. -/
def State.hostReadable (s : State) : Bool := s.constructed && !s.busy

/-- The host reads `raw_hist[i][k]` (20_memory.md R56); none where the histories are not readable (log 21). -/
def State.hostRaw (s : State) (i k : Nat) : Option Raw := if s.hostReadable then s.rawAt i k else none

/-- The host reads `signed_hist[i][k]` (20_memory.md R56); none where the histories are not readable (log 21). -/
def State.hostSigned (s : State) (i k : Nat) : Option SignedEntry :=
  if s.hostReadable then s.signedAt i k else none

/-- The host reads the lengths of the two histories of line `i` (20_memory.md R56); none where the histories are not readable
(log 21). -/
def State.hostLength (s : State) (i : Nat) : Option (Nat × Nat) :=
  if s.hostReadable then s.lines[i]?.map fun l => (l.rawHist.length, l.signedHist.length) else none

/-! ### The movement of `phase` (40_sequencer.md R110) -/

/-- `poll`, `bit`, `tp` hold no specified value: free values of their ranges (10_state.md R30, R39; log 8). -/
def State.freeCounters (s : State) : State :=
  { s with
    poll := (Config.freePoll s.fresh).val
    bit := (Config.freeBit s.fresh).val
    tp := (Config.freeTp s.fresh).val
    fresh := s.fresh + 1 }

/-- `phase <- P` inside an operation (00_scope.md R12). -/
def State.goto (s : State) (p : Phase) : State := { s with phase := p }

/-- A command of its own leaves Idle (40_sequencer.md R110, R111). -/
def State.enter (s : State) (r : Running) (p : Phase) : State := { s with running := some r, phase := p }

/-! ### Refusals and the abort path: what stands for an exception (60_exceptions.md R197, R198) -/

/-- A command is turned away with cause `c`: only the result registers change (60_exceptions.md R198). -/
def State.refuse (s : State) (c : Cause) : State := s.complete c

/-- A word presented while BUSY: the answer goes to the presenter alone (60_exceptions.md R196). -/
def State.answerBusy (s : State) : State := { s with answers := s.answers ++ [s.answer .busy] }

/-- The end of an operation that left Idle, on success and on failure alike: `phase <- Idle` and the result registers are
written; nothing is rolled back (60_exceptions.md R198). -/
def State.endOperation (s : State) (c : Cause) : State :=
  { s.freeCounters with running := none, phase := .idle }.complete c

/-- Tests (1) and (3) of 60_exceptions.md R197 around a command other than CONSTRUCT. -/
def State.accept (s : State) (body : State → State) : State :=
  if s.busy then s.answerBusy
  else if s.constructed then body s
  else s.refuse .notConstructed

/-- Tests (1), (3) and (4) of 60_exceptions.md R197 around a command of format L. -/
def State.acceptLine (s : State) (i : Nat) (body : State → State) : State :=
  s.accept fun s => if i < s.nlines then body s else s.refuse .illegalCommand

end Sys2Proof.Machine
end

