-- ==== Sys2Proof/Machine/Decoder.lean ====
section
/-! DEFINITION. The two's-complement decoder with range validator: DECODE (43_decoder.md R170 to R175). -/

namespace Sys2Proof.Machine

/-- `RangeInvalid(raw)`: `0x7FFFFF < raw < 0x800000` (43_decoder.md R171). -/
def rangeInvalid (raw : Raw) : Bool := decide (0x7FFFFF < raw.toNat ∧ raw.toNat < 0x800000)

/-- `DECODE(raw)` as a function (43_decoder.md R170). -/
def decodeRaw (raw : Raw) : SignedEntry :=
  if rangeInvalid raw then .invalid
  else if raw.getLsbD 23 then .int (-(((raw ^^^ 0xFFFFFF#24).toNat : Int) + 1))
  else .int (raw.toNat : Int)

/-- The `res` register for a decoded value: its 24-bit two's-complement pattern, or valid = 0 and 0 (30_encoding.md R77). -/
def SignedEntry.res : SignedEntry → Res
  | .int v => { valid := true, value := BitVec.ofInt 24 v }
  | .invalid => { valid := false, value := 0 }

/-- DECODE (43_decoder.md R170). -/
def execDecode (raw : Raw) (s : State) : Result :=
  .next (s.accept fun s => { s with res := (decodeRaw raw).res }.complete .ok)

end Sys2Proof.Machine
end

