-- ==== Sys2Proof/Machine/Accumulator.lean ====
section
/-! DEFINITION. The serial bit-shift accumulator: RESETT, SAMPLE, FINAL (42_accumulator.md R150 to R155). -/

namespace Sys2Proof.Machine

/-- `trunc_24((acc << 1) | b)` (42_accumulator.md R152). -/
def shiftIn (acc : Raw) (b : Level) : Raw := (acc <<< 1) ||| levelBit b

/-- RESETT(i) as READ calls it (42_accumulator.md R151). -/
def State.resett (s : State) (i : Nat) : State := s.setLine i fun l => { l with acc := 0 }

/-- SAMPLE(i) as READ calls it (42_accumulator.md R152). -/
def State.sample (s : State) (i : Nat) : State :=
  (s.pinRead i).2.setLine i fun l => { l with acc := shiftIn l.acc (s.pinRead i).1 }

/-- FINAL(i) as READ calls it (42_accumulator.md R153). The append does not happen when the history is full
(20_memory.md R57); its two callers test for that before (60_exceptions.md R199; log 12). -/
def State.final (s : State) (i : Nat) : State :=
  match s.lines[i]? with
  | none => s
  | some l =>
    if s.params.full l.rawHist.length then s
    else
      let raw := l.acc
      let signed := decodeRaw raw
      let s := s.setLine i fun l => l.append raw signed
      let s := if signed = .invalid then s.emitDiag (.invalidSample i raw) else s
      s.emitDiag (.values i raw signed)

/-- RESETT (42_accumulator.md R151). -/
def execResett (i : Nat) (s : State) : Result := .next (s.acceptLine i fun s => (s.resett i).complete .ok)

/-- SAMPLE (42_accumulator.md R152). -/
def execSample (i : Nat) (s : State) : Result := .next (s.acceptLine i fun s => (s.sample i).complete .ok)

/-- FINAL (42_accumulator.md R153, 60_exceptions.md R199). -/
def execFinal (i : Nat) (s : State) : Result :=
  .next (s.acceptLine i fun s => if s.lineFull i then s.refuse .historyOverflow else (s.final i).complete .ok)

end Sys2Proof.Machine
end

