-- ==== Sys2Proof/Machine/Sequencer.lean ====
section
/-! DEFINITION. The clock-pulse sequencer: PREPARE, PULSE (40_sequencer.md R100 to R102, R111). A subroutine gives its cause
(OK is the source's `true`) and the state it leaves; as a command it is bracketed by its phase and ends in
`State.endOperation`. -/

namespace Sys2Proof.Machine

/-- One poll: every line is read, in line order; the first component says whether all read LOW (40_sequencer.md R100). -/
def State.pollLines (s : State) : Bool × State :=
  (List.range s.nlines).foldl
    (fun (r : Bool × State) i => (r.1 && decide ((r.2.pinRead i).1 = .low), (r.2.pinRead i).2)) (true, s)

/-- One turn of PREPARE's loop up to its test: a poll, and `poll <- poll + 1` (40_sequencer.md R100). -/
def State.pollOnce (s : State) : Bool × State :=
  (s.pollLines.1, { s.pollLines.2 with poll := s.pollLines.2.poll + 1 })

/-- The start of PREPARE: the LOW write, always, and `poll <- 0` (40_sequencer.md R100). -/
def State.startPolling (s : State) : State := { s.pinWrite .low with poll := 0 }

/-- PREPARE's loop with `n` polls left (40_sequencer.md R100): a wait follows every poll that failed, the last too. -/
def prepareLoop : Nat → State → Cause × State
  | 0, s => (.notReady, s)
  | n + 1, s => if s.pollOnce.1 then (.ok, s.pollOnce.2) else prepareLoop n s.pollOnce.2.wait

/-- PREPARE as READ calls it (40_sequencer.md R100). -/
def State.prepare (s : State) : Cause × State := prepareLoop Config.pollMax s.startPolling

/-- PULSE as WRGAIN and READ call it (40_sequencer.md R101): both writes are made before the time is tested. -/
def State.pulse (s : State) : Cause × State :=
  let s := s.pinWrite .high
  let s := s.pinWrite .low
  let e := s.elapsed.1
  let s := s.elapsed.2
  if s.params.trips e then (.timingViolation, s.emitDiag (.timingViolation e)) else (.ok, s)

/-- PREPARE issued on its own (40_sequencer.md R111). -/
def State.runPrepare (s : State) : State :=
  let r := (s.enter .prepare .preparing).prepare
  r.2.endOperation r.1

/-- PULSE issued on its own (40_sequencer.md R111). -/
def State.runPulse (s : State) : State :=
  let r := (s.enter .pulse .pulsing).pulse
  r.2.endOperation r.1

/-- PREPARE (40_sequencer.md R100, R111). -/
def execPrepare (s : State) : Result := .next (s.accept State.runPrepare)

/-- PULSE (40_sequencer.md R101, R111). -/
def execPulse (s : State) : Result := .next (s.accept State.runPulse)

end Sys2Proof.Machine
end

