-- ==== Sys2Proof/Machine/ChGain.lean ====
section
/-! DEFINITION. The channel/gain pulse encoder: CONSTRUCT, SETCFG, WRGAIN (41_chgain_encoder.md R130 to R135). -/

namespace Sys2Proof.Machine

/-- The directions CONSTRUCT sets: the clock first, then the data lines in line order (41_chgain_encoder.md R132). -/
def State.setDirections (s : State) : State :=
  (s.pinDir .clk .output).eachLine fun s i => s.pinDir (.data i) .input

/-- A line of a new controller: empty histories; the accumulator and the calibration values are left unspecified
(41_chgain_encoder.md R132, 10_state.md R39; log 6, log 7). -/
def Line.constructed (n : Nat) : Line :=
  { acc := Config.freeAcc n, rawHist := [], signedHist := [], offset := ⟨Config.freeOffset n⟩, ratio := ⟨Config.freeRatio n⟩ }

/-- The effect of a CONSTRUCT whose pair is valid (41_chgain_encoder.md R132, 10_state.md R39). -/
def State.construct (s : State) (dbg : Bool) (cfg : Cfg) : State :=
  let s := s.setDirections
  { s.freeCounters with
    cfg := cfg
    dbg := dbg
    lines := (List.range s.nlines).map fun i => Line.constructed (s.fresh + i)
    constructed := true
    fresh := s.fresh + s.nlines + 1 }

/-- WRGAIN's loop with `n` trailing pulses left (41_chgain_encoder.md R134): it returns at once when one fails. -/
def wrgainLoop : Nat → State → Cause × State
  | 0, s => (.ok, s)
  | n + 1, s =>
    match s.pulse with
    | (.ok, s) => wrgainLoop n { s with tp := s.tp + 1 }
    | (c, s) => (c, s)

/-- WRGAIN as READ calls it (41_chgain_encoder.md R134). -/
def State.wrgain (s : State) : Cause × State := wrgainLoop s.cfg.pulses { s with tp := 0 }

/-- WRGAIN issued on its own (40_sequencer.md R111). -/
def State.runWrgain (s : State) : State :=
  let r := (s.enter .wrgain .settingGain).wrgain
  r.2.endOperation r.1

/-- CONSTRUCT (41_chgain_encoder.md R132): the one command that is accepted before construction; validation precedes every
side effect. -/
def execConstruct (dbg : Bool) (ch : Channel) (gain : GainCode) (s : State) : Result :=
  .next
    (if s.busy then s.answerBusy
     else match cfgOf ch gain with
      | none => s.refuse .configError
      | some cfg => (s.construct dbg cfg).complete .ok)

/-- SETCFG (41_chgain_encoder.md R133). -/
def execSetcfg (ch : Channel) (gain : GainCode) (s : State) : Result :=
  .next (s.accept fun s =>
    match cfgOf ch gain with
    | none => s.refuse .configError
    | some cfg => { s with cfg := cfg }.complete .ok)

/-- WRGAIN (41_chgain_encoder.md R134, 40_sequencer.md R111). -/
def execWrgain (s : State) : Result := .next (s.accept State.runWrgain)

end Sys2Proof.Machine
end

