-- ==== Sys2Proof/Machine/Read.lean ====
section
/-! DEFINITION. The conversion cycle: READ (40_sequencer.md R103 to R108). -/

namespace Sys2Proof.Machine

/-- READ enters Sampling: every accumulator is reset, in line order, and `bit <- 0` (40_sequencer.md R104). -/
def State.startSampling (s : State) : State := { (s.goto .sampling).eachLine State.resett with bit := 0 }

/-- Every line is sampled, in line order, and `bit <- bit + 1` (40_sequencer.md R104). -/
def State.sampleLines (s : State) : State :=
  { s.eachLine State.sample with bit := (s.eachLine State.sample).bit + 1 }

/-- READ's data loop with `n` data pulses left (40_sequencer.md R104): no sample follows a pulse that failed. -/
def dataLoop : Nat → State → Cause × State
  | 0, s => (.ok, s)
  | n + 1, s =>
    match s.pulse with
    | (.ok, s) => dataLoop n s.sampleLines
    | (c, s) => (c, s)

/-- READ's Finalizing: every line is finalised, in line order (40_sequencer.md R104). -/
def State.finalizeLines (s : State) : State := (s.goto .finalizing).eachLine State.final

/-- READ's body after the entry test and `phase <- Preparing` (40_sequencer.md R104). -/
def State.read (s : State) : Cause × State :=
  match s.prepare with
  | (.ok, s) =>
    match dataLoop Config.dataBits s.startSampling with
    | (.ok, s) => (s.finalizeLines.goto .settingGain).wrgain
    | (c, s) => (c, s)
  | (c, s) => (c, s)

/-- READ accepted: `phase <- Preparing`, the whole cycle, and its end (40_sequencer.md R104, R105). -/
def State.runRead (s : State) : State :=
  let r := (s.enter .read .preparing).read
  r.2.endOperation r.1

/-- READ (40_sequencer.md R103, R104). -/
def execRead (s : State) : Result :=
  .next (s.accept fun s => if s.anyFull then s.refuse .historyOverflow else s.runRead)

end Sys2Proof.Machine
end

