-- ==== Sys2Proof/Machine/Dispatch.lean ====
section
/-! DEFINITION. One arm per operation (30_encoding.md R72): each calls its meaning. -/

namespace Sys2Proof.Machine

def exec (i : Instr) (s : State) : Host.Outcome State Fault Refusal :=
  match i with
  -- 41_chgain_encoder.md
  | .construct dbg ch gain => Sys2Proof.Machine.execConstruct dbg ch gain s
  | .setcfg ch gain => Sys2Proof.Machine.execSetcfg ch gain s
  -- 40_sequencer.md
  | .prepare => Sys2Proof.Machine.execPrepare s
  | .pulse => Sys2Proof.Machine.execPulse s
  -- 41_chgain_encoder.md
  | .wrgain => Sys2Proof.Machine.execWrgain s
  -- 40_sequencer.md
  | .read => Sys2Proof.Machine.execRead s
  -- 42_accumulator.md
  | .resett line => Sys2Proof.Machine.execResett line s
  | .sample line => Sys2Proof.Machine.execSample line s
  | .final line => Sys2Proof.Machine.execFinal line s
  -- 43_decoder.md
  | .decode raw => Sys2Proof.Machine.execDecode raw s

end Sys2Proof.Machine
end

