-- ==== Sys2Proof/Machine/Progress.lean ====
section
/-! DEFINITION. An operation in progress, one turn of its loop at a time: what the block does while the host presents words
without waiting (10_state.md R29, R30, 40_sequencer.md R110, 60_exceptions.md R196; log 9, log 10). `exec` is the whole
operation; `start` begins it and `advance` takes it one turn further. -/

namespace Sys2Proof.Machine

/-- READ's PREPARE has returned true, so sampling starts; in every other case the operation ends with the cause
(40_sequencer.md R104, R110). -/
def State.prepared (s : State) (c : Cause) : State :=
  if s.running = some .read ∧ c = .ok then s.startSampling else s.endOperation c

/-- A turn in Preparing: one poll (40_sequencer.md R100). -/
def State.advancePreparing (s : State) : State :=
  if s.poll < Config.pollMax then
    let r := s.pollOnce
    if r.1 then r.2.prepared .ok
    else if r.2.wait.poll < Config.pollMax then r.2.wait
    else r.2.wait.prepared .notReady
  else s.prepared .notReady

/-- A turn in Sampling: one data pulse, and the sampling of every line (40_sequencer.md R104). -/
def State.advanceSampling (s : State) : State :=
  if s.bit < Config.dataBits then
    match s.pulse with
    | (.ok, s) => if s.sampleLines.bit < Config.dataBits then s.sampleLines else s.sampleLines.goto .finalizing
    | (c, s) => s.endOperation c
  else s.goto .finalizing

/-- The turn in Finalizing: every line is finalised, and the trailing pulses are begun (40_sequencer.md R104). -/
def State.advanceFinalizing (s : State) : State := { s.finalizeLines.goto .settingGain with tp := 0 }

/-- A turn in SettingGain: one trailing pulse (41_chgain_encoder.md R134). -/
def State.advanceSettingGain (s : State) : State :=
  if s.tp < s.cfg.pulses then
    match s.pulse with
    | (.ok, s) =>
      if s.tp + 1 < s.cfg.pulses then { s with tp := s.tp + 1 } else { s with tp := s.tp + 1 }.endOperation .ok
    | (c, s) => s.endOperation c
  else s.endOperation .ok

/-- The turn in Pulsing (40_sequencer.md R111). -/
def State.advancePulsing (s : State) : State :=
  let r := s.pulse
  r.2.endOperation r.1

/-- One turn of the operation in progress (40_sequencer.md R110); in Idle there is none. -/
def advance (s : State) : State :=
  match s.phase with
  | .idle => s
  | .preparing => s.advancePreparing
  | .sampling => s.advanceSampling
  | .finalizing => s.advanceFinalizing
  | .settingGain => s.advanceSettingGain
  | .pulsing => s.advancePulsing

/-- `n` turns. -/
def advanceN : Nat → State → State
  | 0, s => s
  | n + 1, s => advanceN n (advance s)

/-- No operation takes more turns than READ: 20 polls, 24 data pulses, one Finalizing, 3 trailing pulses
(40_sequencer.md R110). -/
def maxTurns : Nat := Config.pollMax + Config.dataBits + 1 + 3

/-- READ, PREPARE, WRGAIN, PULSE accepted and begun; the other six complete within Idle, so beginning them is all of them
(10_state.md R29, 40_sequencer.md R110). -/
def start (i : Instr) (s : State) : Result :=
  match i with
  | .prepare => .next (s.accept fun s => (s.enter .prepare .preparing).startPolling)
  | .pulse => .next (s.accept fun s => s.enter .pulse .pulsing)
  | .wrgain => .next (s.accept fun s => { s.enter .wrgain .settingGain with tp := 0 })
  | .read =>
    .next (s.accept fun s =>
      if s.anyFull then s.refuse .historyOverflow else (s.enter .read .preparing).startPolling)
  | .construct dbg ch gain => exec (.construct dbg ch gain) s
  | .setcfg ch gain => exec (.setcfg ch gain) s
  | .resett line => exec (.resett line) s
  | .sample line => exec (.sample line) s
  | .final line => exec (.final line) s
  | .decode raw => exec (.decode raw) s

end Sys2Proof.Machine
end

