-- ==== Sys2Proof/Machine/Port.lean ====
section
/-! DEFINITION. The command port: a word accepted in Idle, a word presented while busy (30_encoding.md R70, R78,
60_exceptions.md R193, R196). -/

namespace Sys2Proof.Machine

/-- The host does not wait for Idle with its next word (log 10). -/
def State.nextIsEarly (s : State) : Bool :=
  match s.port with
  | [] => false
  | p :: _ => decide (p.arrival ≠ .whenIdle)

/-- A word accepted in Idle: an illegal one is refused (30_encoding.md R78, 60_exceptions.md R193); a legal one is
performed to its end, or only begun when the host does not wait for Idle with its next word (log 10). -/
def acceptWord (w : Word) (s : State) : Result :=
  match decode w with
  | .illegal _ => .next (s.refuse .illegalCommand)
  | .legal i => if s.nextIsEarly then start i s else exec i s

/-- A step while an operation is in progress. A word whose moment has come is answered Busy whatever it is, and the operation
does not move, so any number of words can be presented at one moment; with none due, the operation goes one turn further
(60_exceptions.md R196, R197; log 10). -/
def State.progress (s : State) : State :=
  match s.port with
  | [] => advance s
  | p :: rest =>
    match p.arrival with
    | .whenIdle => advance s
    | .afterTurns 0 => { s with port := rest }.answerBusy
    | .afterTurns (n + 1) => advance { s with port := { p with arrival := .afterTurns n } :: rest }

/-- The word `w` of `nbits` bits, put before the words the host presents, the first of which then waits for Idle. -/
def presentFirst (nbits w : Nat) (port : List Presented) : List Presented :=
  { word := BitVec.ofNat 32 (w % 2 ^ nbits), arrival := .whenIdle } ::
    match port with
    | [] => []
    | p :: rest => { p with arrival := .whenIdle } :: rest

end Sys2Proof.Machine
end

