-- ==== Sys2Proof/Machine/Step.lean ====
section
/-! DEFINITION. The step of the closed machine: the command port in Idle, the operation in progress otherwise
(30_encoding.md R70, 60_exceptions.md R196, R197). -/

namespace Sys2Proof.Machine

/-- One step (log 10, log 16). In Idle the next word of the port is accepted; with none presented the block waits. While an
operation is in progress a word due now is answered Busy, and with none due the operation goes one turn further. -/
def step (s : State) : Host.Outcome State Fault Refusal :=
  match s.phase with
  | .idle =>
    match s.port with
    | [] => .next s
    | p :: rest => acceptWord p.word { s with port := rest }
  | _ => .next s.progress

/-- `n` steps, up to the first that is not answered next. -/
def stepN : Nat → State → Host.Outcome State Fault Refusal
  | 0, s => .next s
  | n + 1, s =>
    match step s with
    | .next t => stepN n t
    | .fault r => .fault r
    | .refused r => .refused r

/-- The state whose very next step accepts the word `w` of `nbits` bits and runs it (log 13). -/
def State.withFetchWord (s : State) (nbits w : Nat) : State :=
  { s with
    port := presentFirst nbits w s.port
    phase := .idle
    running := none }

end Sys2Proof.Machine
end

