-- ==== Sys2Proof/Machine/Pseudo.lean ====
section
/-! DEFINITION. The pseudo-instructions and their expansions (30_encoding.md R86). -/

namespace Sys2Proof.Machine

/-- RESETALL on `n` lines (30_encoding.md R86). -/
def resetAll (n : Nat) : List Instr := (List.range n).map .resett

/-- SAMPLEALL on `n` lines (30_encoding.md R86). -/
def sampleAll (n : Nat) : List Instr := (List.range n).map .sample

/-- FINALALL on `n` lines (30_encoding.md R86). -/
def finalAll (n : Nat) : List Instr := (List.range n).map .final

/-- RECONFIG (30_encoding.md R86). -/
def reconfig (ch : Channel) (gain : GainCode) : List Instr := [.setcfg ch gain, .read]

/-- READ.X on `n` lines (30_encoding.md R86). -/
def readX (n : Nat) : List Instr :=
  [.prepare] ++ resetAll n ++ (List.replicate Config.dataBits (.pulse :: sampleAll n)).flatten ++ finalAll n ++ [.wrgain]

/-- The commands one after another, "stopping at the first command whose `ok = 0`" (30_encoding.md R86). -/
def execSeq : List Instr → State → Result
  | [], s => .next s
  | i :: is, s =>
    match exec i s with
    | .next t => if t.ok then execSeq is t else .next t
    | .fault r => .fault r
    | .refused r => .refused r

end Sys2Proof.Machine
end

