-- ==== Sys2Proof/Safety.lean ====
section
/-! DEFINITION. The terms claims are stated in: frames, the expected events and values as functions of the draws
(40_sequencer.md R108), the order of the refusals (60_exceptions.md R197), and the invariant of the block (10_state.md R41). -/

namespace Sys2Proof.Machine

/-! ### Frames -/

/-- The instance, the configuration and the host's words are as before. -/
def SameSetup (s t : State) : Prop :=
  t.constructed = s.constructed ∧ t.cfg = s.cfg ∧ t.dbg = s.dbg ∧ t.params = s.params ∧ t.port = s.port

/-- A command is accepted: a controller exists and no operation is in progress (60_exceptions.md R195, R196). -/
def Ready (s : State) : Prop := s.constructed = true ∧ s.phase = .idle

/-- The operation ended in Idle with cause `c`: the result registers say so and the host was told (10_state.md R32);
`res` is as before. -/
def EndsWith (s t : State) (c : Cause) : Prop :=
  t.phase = .idle ∧ t.running = none ∧ t.ok = decide (c = .ok) ∧ t.cause = c ∧ t.res = s.res ∧
    t.answers = s.answers ++ [{ ok := decide (c = .ok), cause := c, res := s.res }]

/-- `s` with nothing but the result registers written (60_exceptions.md R198). -/
def onlyResult (s : State) (c : Cause) : State :=
  { s with
    ok := decide (c = .ok)
    cause := c
    answers := s.answers ++ [{ ok := decide (c = .ok), cause := c, res := s.res }] }

/-- `s` with nothing but a Busy answer given to the presenter (60_exceptions.md R196). -/
def onlyBusyAnswer (s : State) : State :=
  { s with answers := s.answers ++ [{ ok := false, cause := .busy, res := s.res }] }

/-- The records appended when `DBG = 1` (60_exceptions.md R216). -/
def diagAfter (s : State) (records : List Diag) : List Diag := if s.dbg then s.diag ++ records else s.diag

/-! ### Events and values as functions of the draws (40_sequencer.md R108) -/

/-- The reads of all `n` lines, in line order, from draw `base` on. -/
def readEvents (d : Draws) (n base : Nat) : List Event := (List.range n).map fun i => .read i (d.level (base + i))

/-- Poll number `q`, counted from 0, reads every one of the `n` lines LOW (40_sequencer.md R100). -/
def pollReady (d : Draws) (n q : Nat) : Bool := decide (∀ i < n, d.level (q * n + i) = .low)

/-- The trace of `q` polls that failed, from the first poll on (40_sequencer.md R100). -/
def failedPolls (d : Draws) (n q : Nat) : List Event :=
  (List.range q).flatMap fun j => readEvents d n (j * n) ++ [.wait]

/-- The trace of a PREPARE whose poll number `q` succeeded (40_sequencer.md R100). -/
def readyTrace (d : Draws) (n q : Nat) : List Event :=
  [.write .low] ++ failedPolls d n q ++ readEvents d n (q * n)

/-- A pulse of elapsed time `e`: HIGH, LOW, the measurement (40_sequencer.md R101, R102). -/
def pulseEvents (e : Nat) : List Event := [.write .high, .write .low, .elapsed e]

/-- `k` pulses alone, the first drawing elapsed time number `tbase`. -/
def barePulses (d : Draws) (tbase k : Nat) : List Event :=
  (List.range k).flatMap fun m => pulseEvents (d.time (tbase + m))

/-- `k` data pulses, each followed by the sampling of all `n` lines, reads from draw `base` on (40_sequencer.md R108). -/
def dataGroups (d : Draws) (n base k : Nat) : List Event :=
  (List.range k).flatMap fun m => pulseEvents (d.time m) ++ readEvents d n (base + m * n)

/-- `s_i(k)`: the number made of the first `k` bits sampled on line `i`, first bit most significant
(40_sequencer.md R105). -/
def sampledBits (d : Draws) (n base i : Nat) : Nat → Nat
  | 0 => 0
  | k + 1 => 2 * sampledBits d n base i k + (levelBit (d.level (base + k * n + i))).toNat

/-- The 24-bit value of `s_i(k)`. -/
def sampledRaw (d : Draws) (n base i k : Nat) : Raw := BitVec.ofNat 24 (sampledBits d n base i k)

/-- The number made of a list of bits, first bit most significant (30_encoding.md R80). -/
def bitsValue : List Level → Nat
  | [] => 0
  | b :: bs => (levelBit b).toNat * 2 ^ bs.length + bitsValue bs

/-- The diagnostic records of finalising every line with the given values (42_accumulator.md R153). -/
def finalRecords (n : Nat) (raw : Nat → Raw) : List Diag :=
  (List.range n).map fun i => .values i (raw i) (decodeRaw (raw i))

/-- A pulse is a HIGH write; their number (40_sequencer.md R102). -/
def pulseCount (es : List Event) : Nat := es.countP fun e => decide (e = .write .high)

/-- Every HIGH write is followed at once by a LOW write (40_sequencer.md R102). -/
def pulseShaped : List Event → Bool
  | [] => true
  | .write .high :: .write .low :: es => pulseShaped es
  | .write .high :: _ => false
  | _ :: es => pulseShaped es

/-- The clock was written at least once. -/
def clockWritten (es : List Event) : Bool := es.any fun e => decide (e = .write .low ∨ e = .write .high)

/-! ### The order of the refusals (60_exceptions.md R197) -/

/-- Tests (3) to (6) on an operation accepted in Idle: the first that fails names the cause. -/
def firstRefusal (s : State) : Instr → Option Cause
  | .construct _ ch gain => if cfgOf ch gain = none then some .configError else none
  | .setcfg ch gain =>
    if s.constructed = false then some .notConstructed
    else if cfgOf ch gain = none then some .configError else none
  | .prepare => if s.constructed = false then some .notConstructed else none
  | .pulse => if s.constructed = false then some .notConstructed else none
  | .wrgain => if s.constructed = false then some .notConstructed else none
  | .read =>
    if s.constructed = false then some .notConstructed
    else if s.anyFull = true then some .historyOverflow else none
  | .resett line =>
    if s.constructed = false then some .notConstructed
    else if s.nlines ≤ line then some .illegalCommand else none
  | .sample line =>
    if s.constructed = false then some .notConstructed
    else if s.nlines ≤ line then some .illegalCommand else none
  | .final line =>
    if s.constructed = false then some .notConstructed
    else if s.nlines ≤ line then some .illegalCommand
    else if s.lineFull line = true then some .historyOverflow else none
  | .decode _ => if s.constructed = false then some .notConstructed else none

/-! ### The invariant (10_state.md R20 to R41) -/

/-- The phase an operation in progress may be in (40_sequencer.md R110). -/
def phaseFits : Phase → Option Running → Bool
  | .idle, none => true
  | .preparing, some .prepare => true
  | .preparing, some .read => true
  | .sampling, some .read => true
  | .finalizing, some .read => true
  | .settingGain, some .read => true
  | .settingGain, some .wrgain => true
  | .pulsing, some .pulse => true
  | _, _ => false

/-- All raw histories have the same length (10_state.md R41 (e)). -/
def EqualLengths (s : State) : Prop :=
  ∀ l ∈ s.lines, ∀ m ∈ s.lines, l.rawHist.length = m.rawHist.length

/-- What holds in every state the block can be in (10_state.md R20 to R41). -/
structure Inv (s : State) : Prop where
  /-- 1 <= NLINES (00_scope.md R8). -/
  lines_pos : 1 ≤ s.nlines
  /-- NLINES <= 2^24 (00_scope.md R8). -/
  lines_le : s.nlines ≤ Config.maxLines
  /-- The histories are index-aligned and each signed entry is the decode of its raw entry (10_state.md R24). -/
  aligned : ∀ l ∈ s.lines, l.signedHist = l.rawHist.map decodeRaw
  /-- No history is longer than a finite HDEPTH (20_memory.md R57). -/
  depth : ∀ d, s.params.hdepth = some d → ∀ l ∈ s.lines, l.rawHist.length ≤ d
  /-- 10_state.md R30. -/
  poll_le : s.poll ≤ Config.pollMax
  /-- 10_state.md R30. -/
  bit_le : s.bit ≤ Config.dataBits
  /-- 10_state.md R30. -/
  tp_le : s.tp ≤ 3
  /-- The phase and the command in progress fit (40_sequencer.md R110). -/
  fits : phaseFits s.phase s.running = true
  /-- Nothing runs before construction (60_exceptions.md R195). -/
  built : s.running ≠ none → s.constructed = true
  /-- `cause = 0` exactly when `ok = 1` (10_state.md R32). -/
  result : s.ok = decide (s.cause = .ok)
  /-- Once written, the clock line idles LOW between the turns of an operation and between operations (10_state.md R28). -/
  clock : clockWritten s.trace = true → s.clk = .low
  /-- Every pulse is HIGH then LOW (40_sequencer.md R102). -/
  shaped : pulseShaped s.trace = true

end Sys2Proof.Machine
end

