-- ==== Sys2Proof/Certificates/Slice0/Obligations.lean ====
section
/-! DEFINITION. The statements for the provers: what each operation does and leaves alone, what it refuses, and what holds of
the block as a whole. Each docstring names the rule of spec/ it formalises. -/

open Sys2Proof Sys2Proof.Machine

/-! ### Encodings (30_encoding.md) -/

/-- Decoding the encoding of a well-formed instruction gives it back (30_encoding.md R71 to R76). Rests on the spec's
own decisions D2, D3. -/
def Obligations.EncodeDecodeRoundTrip : Prop :=
  ∀ i : Instr, i.wellFormed = true → decode (encode i) = .legal i

/-- A legal word is the encoding of the one instruction it decodes to (30_encoding.md R71 to R78). Rests on the spec's
own decisions D2, D3. -/
def Obligations.LegalWordIsItsEncoding : Prop :=
  ∀ (w : Word) (i : Instr), decode w = .legal i → i.wellFormed = true ∧ encode i = w

/-- The word of a well-formed instruction is the match of its row with the operand fields OR-ed in (30_encoding.md R72
to R76, R85). Rests on the spec's own decisions D2, D3. -/
def Obligations.EncodingIsMatchOrOperands : Prop :=
  (∀ (dbg : Bool) (ch : Channel) (gain : GainCode),
    encode (.construct dbg ch gain) =
      0x10000000#32 ||| (BitVec.ofBool dbg).setWidth 32 <<< 3 ||| (channelBit ch).setWidth 32 <<< 2 |||
        (gainBits gain).setWidth 32) ∧
  (∀ (ch : Channel) (gain : GainCode),
    encode (.setcfg ch gain) = 0x20000000#32 ||| (channelBit ch).setWidth 32 <<< 2 ||| (gainBits gain).setWidth 32) ∧
  (∀ line < 2 ^ 24,
    encode (.resett line) = 0x80000000#32 ||| BitVec.ofNat 32 line ∧
    encode (.sample line) = 0x90000000#32 ||| BitVec.ofNat 32 line ∧
    encode (.final line) = 0xA0000000#32 ||| BitVec.ofNat 32 line) ∧
  (∀ raw : Raw, encode (.decode raw) = 0xB0000000#32 ||| raw.setWidth 32) ∧
  encode .prepare = 0x30000000#32 ∧ encode .pulse = 0x40000000#32 ∧
  encode .wrgain = 0x50000000#32 ∧ encode .read = 0x60000000#32

/-- A legal word selects exactly the row of its instruction, an illegal word none (30_encoding.md R72). Rests on the
spec's own decision D2. -/
def Obligations.WordSelectsAtMostOneRow : Prop :=
  ∀ w : Word,
    (∀ i, decode w = .legal i → opcodeRows.filter (fun r => r.selects w) = [i.row]) ∧
    (∀ why, decode w = .illegal why → opcodeRows.filter (fun r => r.selects w) = [])

/-- The illegal words are exactly those of 30_encoding.md R78 (b). Rests on the spec's own decision D2. -/
def Obligations.IllegalWordsAreThoseOfTheSpec : Prop :=
  ∀ w : Word,
    (∃ why, decode w = .illegal why) ↔
      (w.extractLsb' 28 4 ∈ [0x0#4, 0x7#4, 0xC#4, 0xD#4, 0xE#4, 0xF#4] ∨
        w.extractLsb' 24 4 ≠ 0#4 ∨
        (w.extractLsb' 28 4 ∈ [0x3#4, 0x4#4, 0x5#4, 0x6#4] ∧ w.extractLsb' 0 24 ≠ 0#24) ∨
        (w.extractLsb' 28 4 = 0x1#4 ∧ w.extractLsb' 4 20 ≠ 0#20) ∨
        (w.extractLsb' 28 4 = 0x2#4 ∧ w.extractLsb' 3 21 ≠ 0#21))

/-- Words written out from 30_encoding.md R72 to R76 decode to the instructions they stand for. Rests on the spec's
own decisions D2, D3. -/
def Obligations.WrittenWordsDecode : Prop :=
  decode 0b00010000000000000000000000001110#32 = .legal (.construct true .b .g32) ∧
  decode 0b00100000000000000000000000000001#32 = .legal (.setcfg .a .g64) ∧
  decode 0b00110000000000000000000000000000#32 = .legal .prepare ∧
  decode 0b01000000000000000000000000000000#32 = .legal .pulse ∧
  decode 0b01010000000000000000000000000000#32 = .legal .wrgain ∧
  decode 0b01100000000000000000000000000000#32 = .legal .read ∧
  decode 0b10000000000000000000000000000001#32 = .legal (.resett 1) ∧
  decode 0b10010000100000000000000000000010#32 = .legal (.sample 0x800002) ∧
  decode 0b10100000000000000000000000000011#32 = .legal (.final 3) ∧
  decode 0b10110000101010111100110111101111#32 = .legal (.decode 0xABCDEF#24)

/-- The fields of the result word (30_encoding.md R77) and the codes of the causes (60_exceptions.md R190). Rests on
the spec's own decision D4. -/
def Obligations.ResultWordLayout : Prop :=
  (∀ s : State,
    s.resultWord.getLsbD 31 = s.ok ∧ s.resultWord.extractLsb' 28 3 = s.cause.code ∧
    s.resultWord.extractLsb' 25 3 = 0#3 ∧ s.resultWord.getLsbD 24 = s.res.valid ∧
    s.resultWord.extractLsb' 0 24 = s.res.value) ∧
  Cause.code .ok = 0#3 ∧ Cause.code .notReady = 1#3 ∧ Cause.code .timingViolation = 2#3 ∧
  Cause.code .configError = 3#3 ∧ Cause.code .busy = 4#3 ∧ Cause.code .illegalCommand = 5#3 ∧
  Cause.code .historyOverflow = 6#3 ∧ Cause.code .notConstructed = 7#3

/-! ### The command port (30_encoding.md R70, 60_exceptions.md R193 to R197) -/

/-- A step in Idle takes the next word off the port and runs the instruction it decodes to; it only begins it when the
host does not wait for Idle with its next word, and it waits when no word is presented (30_encoding.md R70; log 10, log 16). Rests
on the spec's own decision D2. -/
def Obligations.StepRunsTheDecodedInstruction : Prop :=
  ∀ s : State, s.phase = .idle →
    (s.port = [] → step s = .next s) ∧
    ∀ (p : Presented) (rest : List Presented) (i : Instr), s.port = p :: rest → decode p.word = .legal i →
      (({ s with port := rest } : State).nextIsEarly = false → step s = exec i { s with port := rest }) ∧
      (({ s with port := rest } : State).nextIsEarly = true → step s = start i { s with port := rest })

/-- A step while an operation is in progress (60_exceptions.md R196; log 10): a word due now is taken off the port and
answered Busy, and the operation does not move; with none due the operation goes one turn further, which brings a word that
is due later one turn nearer. Rests on the spec's own decision D11. -/
def Obligations.StepInProgressAdvances : Prop :=
  ∀ s : State, s.phase ≠ .idle →
    (s.nextIsEarly = false → step s = .next (advance s)) ∧
    (∀ (w : Word) (rest : List Presented), s.port = { word := w, arrival := .afterTurns 0 } :: rest →
      step s = .next (onlyBusyAnswer { s with port := rest })) ∧
    ∀ (w : Word) (n : Nat) (rest : List Presented), s.port = { word := w, arrival := .afterTurns (n + 1) } :: rest →
      step s = .next (advance { s with port := { word := w, arrival := .afterTurns n } :: rest })

/-- An illegal word accepted in Idle sets the result registers and nothing else (60_exceptions.md R193). Rests on the
spec's own decision D2. -/
def Obligations.IllegalWordOnlySetsTheResult : Prop :=
  ∀ (s : State) (p : Presented) (rest : List Presented) (why : IllegalWord),
    s.phase = .idle → s.port = p :: rest → decode p.word = .illegal why →
      step s = .next (onlyResult { s with port := rest } .illegalCommand)

/-- While the block is busy no command executes: only the answer Busy is given (60_exceptions.md R196). Rests on the
spec's own decision D11. -/
def Obligations.BusyCommandIsNotExecuted : Prop :=
  ∀ (i : Instr) (s : State), s.phase ≠ .idle →
    exec i s = .next (onlyBusyAnswer s) ∧ start i s = .next (onlyBusyAnswer s)

/-- Any number of words presented at one moment of an operation in progress are each answered Busy and disturb nothing: the
operation stands where it stood, and its next turn leaves what it would have left, but for the port and the Busy answers that
come before the operation's own (60_exceptions.md R196, 20_memory.md R66). Rests on the spec's own decision D11. Turns are the
model's convention (log 10). -/
def Obligations.BusyWordDisturbsNothing : Prop :=
  ∀ (s : State) (ws : List Word) (rest : List Presented), s.phase ≠ .idle →
    stepN ws.length { s with port := ws.map (fun w => { word := w, arrival := .afterTurns 0 }) ++ rest } =
      .next
        { s with
          port := rest
          answers := s.answers ++ List.replicate ws.length { ok := false, cause := .busy, res := s.res } } ∧
    ∃ later : List Answer, (advance s).answers = s.answers ++ later ∧
      advance
        { s with
          port := rest
          answers := s.answers ++ List.replicate ws.length { ok := false, cause := .busy, res := s.res } } =
        { advance s with
          port := rest
          answers :=
            s.answers ++ List.replicate ws.length { ok := false, cause := .busy, res := s.res } ++ later }

/-- Before construction every instruction but CONSTRUCT is refused with NotConstructed, and a CONSTRUCT that fails
leaves everything but the result registers as it was (60_exceptions.md R195). Rests on the spec's own decisions D12,
D19. -/
def Obligations.NotConstructedRefusesAllButConstruct : Prop :=
  (∀ (i : Instr) (s : State), s.phase = .idle → s.constructed = false → (∀ dbg ch gain, i ≠ .construct dbg ch gain) →
    exec i s = .next (onlyResult s .notConstructed)) ∧
  (∀ (dbg : Bool) (ch : Channel) (gain : GainCode) (s : State), s.phase = .idle → cfgOf ch gain = none →
    exec (.construct dbg ch gain) s = .next (onlyResult s .configError))

/-- A line index out of range is refused with IllegalCommand, nothing accessed (60_exceptions.md R194). Rests on the
spec's own decision D23. -/
def Obligations.LineOutOfRangeIsRefused : Prop :=
  ∀ (s : State) (line : Nat), Ready s → s.nlines ≤ line →
    exec (.resett line) s = .next (onlyResult s .illegalCommand) ∧
    exec (.sample line) s = .next (onlyResult s .illegalCommand) ∧
    exec (.final line) s = .next (onlyResult s .illegalCommand)

/-- The first refusal in the order of 60_exceptions.md R197 decides and changes only the result registers (R198); an
instruction that meets none runs, and can then fail only with NotReady or TimingViolation. Rests on the spec's own
decision D4. -/
def Obligations.RefusalsInTheOrderOfTheSpec : Prop :=
  ∀ (i : Instr) (s : State), s.phase = .idle →
    (∀ c, firstRefusal s i = some c → exec i s = .next (onlyResult s c)) ∧
    (firstRefusal s i = none →
      ∃ t, exec i s = .next t ∧ (t.cause = .ok ∨ t.cause = .notReady ∨ t.cause = .timingViolation))

/-- Every instruction is answered once, with the values the result registers then hold, and ends in Idle; while the
block is busy the answer is Busy (30_encoding.md R70, 10_state.md R32, 60_exceptions.md R196). Rests on the spec's own
decisions D2, D4, D11. -/
def Obligations.EveryInstructionIsAnsweredOnce : Prop :=
  ∀ (i : Instr) (s t : State), exec i s = .next t →
    ∃ a : Answer, t.answers = s.answers ++ [a] ∧ a.ok = decide (a.cause = .ok) ∧ a.res = t.res ∧
      (s.phase = .idle → t.phase = .idle ∧ t.ok = a.ok ∧ t.cause = a.cause) ∧
      (s.phase ≠ .idle → a.cause = .busy ∧ t = { s with answers := t.answers })

/-- The block never halts: every step has a next state (70_reset_and_hazards.md R233). Rests on the spec's own
decision D26. -/
def Obligations.StepAlwaysGoesOn : Prop := ∀ s : State, ∃ t, step s = .next t

/-! ### CONSTRUCT, SETCFG, WRGAIN (41_chgain_encoder.md) -/

/-- CONSTRUCT with a valid pair (41_chgain_encoder.md R132, 10_state.md R39): the configuration, the debug flag, empty
histories, `constructed`, the directions of the pins in order; the clock level, the draws and the diagnostics stay.
The values of `acc[i]`, `offset[i]`, `ratio[i]`, `poll`, `bit`, `tp` are left open and nothing is said of them. Rests
on the spec's own decisions D12, D13, D19, D20. -/
def Obligations.ConstructMakesAController : Prop :=
  ∀ (dbg : Bool) (ch : Channel) (gain : GainCode) (c : Cfg) (s : State), s.phase = .idle → cfgOf ch gain = some c →
    ∃ t, exec (.construct dbg ch gain) s = .next t ∧
      t.constructed = true ∧ t.cfg = c ∧ t.dbg = dbg ∧
      t.nlines = s.nlines ∧ (∀ l ∈ t.lines, l.rawHist = [] ∧ l.signedHist = []) ∧
      t.trace = s.trace ++ [.dir .clk .output] ++ (List.range s.nlines).map (fun i => .dir (.data i) .input) ∧
      t.ok = true ∧ t.cause = .ok ∧ t.answers = s.answers ++ [{ ok := true, cause := .ok, res := s.res }] ∧
      t.phase = .idle ∧ t.running = s.running ∧
      t.clk = s.clk ∧ t.res = s.res ∧ t.diag = s.diag ∧ t.env = s.env ∧ t.params = s.params ∧ t.port = s.port

/-- CONSTRUCT with one of the five other pairs is refused with ConfigError and changes nothing else
(41_chgain_encoder.md R131, R132). Rests on the spec's own decisions D3, D19. -/
def Obligations.ConstructRefusesOtherPairs : Prop :=
  ∀ (dbg : Bool) (ch : Channel) (gain : GainCode) (s : State), s.phase = .idle →
    (ch, gain) ∈ [(Channel.a, GainCode.g32), (.a, .code3), (.b, .g128), (.b, .g64), (.b, .code3)] →
      exec (.construct dbg ch gain) s = .next (onlyResult s .configError)

/-- `Valid(ch, gain)` is true for exactly three pairs, and the register then holds the pair (41_chgain_encoder.md
R131). Rests on the spec's own decision D3. -/
def Obligations.ValidPairsAreThree : Prop :=
  (∀ (ch : Channel) (gain : GainCode),
    (cfgOf ch gain).isSome = true ↔ (ch, gain) ∈ [(Channel.a, GainCode.g128), (.a, .g64), (.b, .g32)]) ∧
  (∀ (ch : Channel) (gain : GainCode) (c : Cfg), cfgOf ch gain = some c → c.channel = ch ∧ c.gain = gain)

/-- `N(CFG)` on the three legal values and on no other, by name and by bit layout, and the total with the 24 data pulses
(41_chgain_encoder.md R130). -/
def Obligations.TrailingPulseCounts : Prop :=
  Cfg.pulses .a128 = 1 ∧ Cfg.pulses .b32 = 2 ∧ Cfg.pulses .a64 = 3 ∧
  Config.dataBits + Cfg.pulses .a128 = 25 ∧ Config.dataBits + Cfg.pulses .b32 = 26 ∧
  Config.dataBits + Cfg.pulses .a64 = 27 ∧ (∀ c : Cfg, c = .a128 ∨ c = .b32 ∨ c = .a64) ∧
  ∀ c : Cfg, (c.bits = 0b000#3 → c.pulses = 1) ∧ (c.bits = 0b110#3 → c.pulses = 2) ∧ (c.bits = 0b001#3 → c.pulses = 3)

/-- A stored CFG is the low three bits of the command word that set it (10_state.md R26). Rests on the spec's own
decision D3. -/
def Obligations.StoredConfigIsTheOperand : Prop :=
  ∀ (dbg : Bool) (ch : Channel) (gain : GainCode) (c : Cfg), cfgOf ch gain = some c →
    (encode (.construct dbg ch gain)).extractLsb' 0 3 = c.bits ∧ (encode (.setcfg ch gain)).extractLsb' 0 3 = c.bits

/-- SETCFG (41_chgain_encoder.md R133): a valid pair writes CFG and the result registers and nothing else; an invalid
pair and a block without a controller are refused with no other change. Rests on the spec's own decision D14. -/
def Obligations.SetcfgWritesOnlyTheConfig : Prop :=
  ∀ (ch : Channel) (gain : GainCode) (s : State), s.phase = .idle →
    (s.constructed = false → exec (.setcfg ch gain) s = .next (onlyResult s .notConstructed)) ∧
    (s.constructed = true → cfgOf ch gain = none → exec (.setcfg ch gain) s = .next (onlyResult s .configError)) ∧
    (s.constructed = true → ∀ c, cfgOf ch gain = some c →
      exec (.setcfg ch gain) s = .next (onlyResult { s with cfg := c } .ok))

/-- WRGAIN when all `N(CFG)` pulses pass the guard (41_chgain_encoder.md R134): the pulses, nothing sampled, nothing
appended. Rests on the spec's own decision D18. -/
def Obligations.WrgainEmitsAllItsPulses : Prop :=
  ∀ s : State, Ready s → (∀ m < s.cfg.pulses, s.params.trips (s.env.time m) = false) →
    ∃ t, exec .wrgain s = .next t ∧ EndsWith s t .ok ∧ SameSetup s t ∧
      t.clk = .low ∧ t.trace = s.trace ++ barePulses s.env 0 s.cfg.pulses ∧
      t.env = s.env.skip 0 s.cfg.pulses ∧ t.lines = s.lines ∧ t.diag = s.diag

/-- WRGAIN when trailing pulse number `k` is the first that fails (41_chgain_encoder.md R134): the pulses after it are
not emitted. Rests on the spec's own decision D18. -/
def Obligations.WrgainStopsAtTheFirstSlowPulse : Prop :=
  ∀ (s : State) (k : Nat), Ready s → k < s.cfg.pulses →
    (∀ m < k, s.params.trips (s.env.time m) = false) → s.params.trips (s.env.time k) = true →
    ∃ t, exec .wrgain s = .next t ∧ EndsWith s t .timingViolation ∧ SameSetup s t ∧
      t.clk = .low ∧ t.trace = s.trace ++ barePulses s.env 0 (k + 1) ∧
      t.env = s.env.skip 0 (k + 1) ∧ t.lines = s.lines ∧ t.diag = diagAfter s [.timingViolation (s.env.time k)]

/-! ### PULSE, PREPARE (40_sequencer.md) -/

/-- PULSE (40_sequencer.md R101): its word; two clock writes, then the measurement; it fails exactly when the time is 60
microseconds or more, and has then emitted its full pulse all the same; no data line is read and no accumulator or history
changes. -/
def Obligations.PulseWritesHighThenLow : Prop :=
  encode .pulse = 0x40000000#32 ∧
  ∀ s : State, Ready s →
    ∃ t, exec .pulse s = .next t ∧
      EndsWith s t (if 60000 * s.params.resDen ≤ s.env.time 0 * s.params.resNum then .timingViolation else .ok) ∧
      SameSetup s t ∧ t.clk = .low ∧
      t.trace = s.trace ++ [.write .high, .write .low, .elapsed (s.env.time 0)] ∧
      t.env = s.env.skip 0 1 ∧ t.lines = s.lines ∧
      t.diag = (if 60000 * s.params.resDen ≤ s.env.time 0 * s.params.resNum then
        diagAfter s [.timingViolation (s.env.time 0)] else s.diag)

/-- PREPARE when poll number `q`, counted from 0, is the first that reads every line LOW (40_sequencer.md R100). Rests
on the spec's own decisions D9, D10. -/
def Obligations.PrepareSucceedsAtTheFirstReadyPoll : Prop :=
  ∀ (s : State) (q : Nat), Ready s → q < 20 → (∀ j < q, pollReady s.env s.nlines j = false) →
    pollReady s.env s.nlines q = true →
    ∃ t, exec .prepare s = .next t ∧ EndsWith s t .ok ∧ SameSetup s t ∧
      t.clk = .low ∧ t.trace = s.trace ++ readyTrace s.env s.nlines q ∧
      t.env = s.env.skip ((q + 1) * s.nlines) 0 ∧ t.lines = s.lines ∧ t.diag = s.diag

/-- PREPARE when every one of the 20 polls reads a line HIGH: NotReady after exactly 20 polls, each with its wait
(40_sequencer.md R100). Rests on the spec's own decisions D9, D10. -/
def Obligations.PrepareFailsAfterTwentyPolls : Prop :=
  ∀ s : State, Ready s → (∀ j < 20, pollReady s.env s.nlines j = false) →
    ∃ t, exec .prepare s = .next t ∧ EndsWith s t .notReady ∧ SameSetup s t ∧
      t.clk = .low ∧ t.trace = s.trace ++ [.write .low] ++ failedPolls s.env s.nlines 20 ∧
      t.env = s.env.skip (20 * s.nlines) 0 ∧ t.lines = s.lines ∧ t.diag = s.diag

/-! ### READ (40_sequencer.md R103 to R108): one statement per exit -/

/-- Exit E0 (40_sequencer.md R103, R105): a history is full, nothing but the result registers changes. Rests on the
spec's own decision D15. -/
def Obligations.ReadRefusesAFullHistory : Prop :=
  ∀ (s : State) (d : Nat) (l : Line), Ready s → s.params.hdepth = some d → l ∈ s.lines → l.rawHist.length = d →
    exec .read s = .next (onlyResult s .historyOverflow)

/-- Exit E1 (40_sequencer.md R105): no poll was ready; no pulse, no accumulator and no history changed. Rests on the
spec's own decisions D9, D10. -/
def Obligations.ReadEndsWhenNeverReady : Prop :=
  ∀ s : State, Ready s → s.anyFull = false → (∀ j < 20, pollReady s.env s.nlines j = false) →
    ∃ t, exec .read s = .next t ∧ EndsWith s t .notReady ∧ SameSetup s t ∧
      t.clk = .low ∧ t.trace = s.trace ++ [.write .low] ++ failedPolls s.env s.nlines 20 ∧
      t.env = s.env.skip (20 * s.nlines) 0 ∧ t.lines = s.lines ∧ t.diag = s.diag

/-- Exit E2 (40_sequencer.md R105): data pulse number `k + 1` is slow; the accumulators hold the `k` bits sampled, the
histories are unchanged, and no sample follows the slow pulse. Reads levels as bits (D5, log 15). Rests on the spec's own
decisions D5, D9, D10. -/
def Obligations.ReadAbandonsTheCycleAtASlowDataPulse : Prop :=
  ∀ (s : State) (q k : Nat), Ready s → s.anyFull = false →
    q < 20 → (∀ j < q, pollReady s.env s.nlines j = false) → pollReady s.env s.nlines q = true →
    k < 24 → (∀ m < k, s.params.trips (s.env.time m) = false) → s.params.trips (s.env.time k) = true →
    ∃ t, exec .read s = .next t ∧ EndsWith s t .timingViolation ∧ SameSetup s t ∧
      t.clk = .low ∧
      t.trace = s.trace ++ readyTrace s.env s.nlines q ++ dataGroups s.env s.nlines ((q + 1) * s.nlines) k ++
        pulseEvents (s.env.time k) ∧
      t.lines = s.lines.mapIdx (fun i l => { l with acc := sampledRaw s.env s.nlines ((q + 1) * s.nlines) i k }) ∧
      t.env = s.env.skip ((q + 1 + k) * s.nlines) (k + 1) ∧
      t.diag = diagAfter s [.timingViolation (s.env.time k)]

/-- Exit E3 (40_sequencer.md R105): trailing pulse number `j + 1` is slow; every history has grown by this cycle's
entry and keeps it, and the remaining trailing pulses are not emitted. Reads levels as bits (D5, log 15). Rests on the
spec's own decisions D5, D9, D10. -/
def Obligations.ReadKeepsTheEntriesWhenATrailingPulseIsSlow : Prop :=
  ∀ (s : State) (q j : Nat), Ready s → s.anyFull = false →
    q < 20 → (∀ p < q, pollReady s.env s.nlines p = false) → pollReady s.env s.nlines q = true →
    j < s.cfg.pulses → (∀ m < 24 + j, s.params.trips (s.env.time m) = false) →
    s.params.trips (s.env.time (24 + j)) = true →
    ∃ t, exec .read s = .next t ∧ EndsWith s t .timingViolation ∧ SameSetup s t ∧
      t.clk = .low ∧
      t.trace = s.trace ++ readyTrace s.env s.nlines q ++ dataGroups s.env s.nlines ((q + 1) * s.nlines) 24 ++
        barePulses s.env 24 (j + 1) ∧
      t.lines = s.lines.mapIdx (fun i l =>
        { l with
          acc := sampledRaw s.env s.nlines ((q + 1) * s.nlines) i 24
          rawHist := l.rawHist ++ [sampledRaw s.env s.nlines ((q + 1) * s.nlines) i 24]
          signedHist := l.signedHist ++ [.int (sampledRaw s.env s.nlines ((q + 1) * s.nlines) i 24).toInt] }) ∧
      t.env = s.env.skip ((q + 1 + 24) * s.nlines) (24 + j + 1) ∧
      t.diag = diagAfter s
        (finalRecords s.nlines (fun i => sampledRaw s.env s.nlines ((q + 1) * s.nlines) i 24) ++
          [.timingViolation (s.env.time (24 + j))])

/-- Exit E4 (40_sequencer.md R104, R105, R108): a successful READ as a function of its draws. Reads levels as bits
(D5, log 15). Rests on the spec's own decisions D5, D9, D10. The spec derives R108 from R100, R101 and R104. -/
def Obligations.ReadAppendsOneSamplePerLine : Prop :=
  ∀ (s : State) (q : Nat), Ready s → s.anyFull = false →
    q < 20 → (∀ p < q, pollReady s.env s.nlines p = false) → pollReady s.env s.nlines q = true →
    (∀ m < 24 + s.cfg.pulses, s.params.trips (s.env.time m) = false) →
    ∃ t, exec .read s = .next t ∧ EndsWith s t .ok ∧ SameSetup s t ∧
      t.clk = .low ∧
      t.trace = s.trace ++ readyTrace s.env s.nlines q ++ dataGroups s.env s.nlines ((q + 1) * s.nlines) 24 ++
        barePulses s.env 24 s.cfg.pulses ∧
      t.lines = s.lines.mapIdx (fun i l =>
        { l with
          acc := sampledRaw s.env s.nlines ((q + 1) * s.nlines) i 24
          rawHist := l.rawHist ++ [sampledRaw s.env s.nlines ((q + 1) * s.nlines) i 24]
          signedHist := l.signedHist ++ [.int (sampledRaw s.env s.nlines ((q + 1) * s.nlines) i 24).toInt] }) ∧
      t.env = s.env.skip ((q + 1 + 24) * s.nlines) (24 + s.cfg.pulses) ∧
      t.diag = diagAfter s (finalRecords s.nlines (fun i => sampledRaw s.env s.nlines ((q + 1) * s.nlines) i 24))

/-- The number of pulses a READ emits (40_sequencer.md R106): `24 + N(CFG)` when it succeeds, none when it ends before
its first data pulse, and otherwise at least one and never more. The spec derives R106 from R104, R105 and R134. -/
def Obligations.ReadPulseCounts : Prop :=
  ∀ s : State, Ready s →
    ∃ t, exec .read s = .next t ∧
      (t.ok = true → pulseCount t.trace = pulseCount s.trace + (24 + s.cfg.pulses)) ∧
      (t.cause = .notReady ∨ t.cause = .historyOverflow → pulseCount t.trace = pulseCount s.trace) ∧
      (t.cause = .timingViolation → pulseCount s.trace + 1 ≤ pulseCount t.trace) ∧
      pulseCount t.trace ≤ pulseCount s.trace + (24 + s.cfg.pulses)

/-- Only FINAL on one line can make the histories of the lines differ in length: every other instruction, READ among
them, appends to all or to none (10_state.md R41 (e), 40_sequencer.md R107). The spec derives R41 (e) and R107 from
R104. -/
def Obligations.HistoriesGrowTogether : Prop :=
  ∀ (i : Instr) (s t : State), (∀ line, i ≠ .final line) → EqualLengths s → exec i s = .next t → EqualLengths t

/-- READ.X is READ: the same trace, draws, lines, clock, diagnostics and result, no history being full
(30_encoding.md R86; the exception of a full history is ReadXStopsAtTheFullLine). Rests on the spec's own decisions D2, D15,
D18. The spec derives the equality from R104. -/
def Obligations.ReadXIsRead : Prop :=
  ∀ s : State, Ready s → s.anyFull = false →
    ∃ t u, exec .read s = .next t ∧ execSeq (readX s.nlines) s = .next u ∧
      u.trace = t.trace ∧ u.env = t.env ∧ u.lines = t.lines ∧ u.clk = t.clk ∧ u.diag = t.diag ∧
      u.ok = t.ok ∧ u.cause = t.cause ∧ u.res = t.res ∧ u.phase = t.phase ∧ u.constructed = t.constructed ∧
      u.cfg = t.cfg ∧ u.dbg = t.dbg

/-! ### The phase machine (40_sequencer.md R110) -/

/-- Beginning an instruction and taking it turn by turn ends in the state the whole instruction gives (40_sequencer.md
R104, R110, R111; log 10). Rests on the spec's own decision D18. -/
def Obligations.TurnsMakeUpTheWholeInstruction : Prop :=
  ∀ (i : Instr) (s : State), s.phase = .idle →
    ∃ t u, start i s = .next t ∧ exec i s = .next u ∧ advanceN maxTurns t = u

/-- Whatever the phase, a bounded number of turns leads back to Idle, and a READ emits a bounded number of events
(40_sequencer.md R110). Rests on the spec's own decision D18. Turns are the model's convention (log 10). -/
def Obligations.EveryOperationEnds : Prop :=
  (∀ s : State, (advanceN maxTurns s).phase = .idle) ∧
  (∀ s t : State, exec .read s = .next t →
    t.trace.length ≤ s.trace.length + (1 + 20 * (s.nlines + 1) + 24 * (3 + s.nlines) + 3 * 3))

/-- The transitions of the phase, each with its condition, as the table of 40_sequencer.md R110 gives them. Rests on
the spec's own decision D18. Turns are the model's convention (log 10). -/
def Obligations.PhaseMovesAsTheTable : Prop :=
  (∀ s : State, s.phase = .preparing → s.poll < 20 →
    (advance s).phase =
      if pollReady s.env s.nlines 0 = true then (if s.running = some .read then .sampling else .idle)
      else if s.poll + 1 < 20 then .preparing else .idle) ∧
  (∀ s : State, s.phase = .sampling → s.bit < 24 →
    (s.params.trips (s.env.time 0) = true → (advance s).phase = .idle) ∧
    (s.params.trips (s.env.time 0) = false → s.bit < 23 →
      (advance s).phase = .sampling ∧ (advance s).bit = s.bit + 1) ∧
    (s.params.trips (s.env.time 0) = false → s.bit = 23 → (advance s).phase = .finalizing)) ∧
  (∀ s : State, s.phase = .finalizing → (advance s).phase = .settingGain) ∧
  (∀ s : State, s.phase = .settingGain → s.tp < s.cfg.pulses →
    (advance s).phase =
      if s.params.trips (s.env.time 0) = false ∧ s.tp + 1 < s.cfg.pulses then .settingGain else .idle) ∧
  (∀ s : State, s.phase = .pulsing → (advance s).phase = .idle) ∧
  (∀ s : State, Ready s →
    (∃ t, start .prepare s = .next t ∧ t.phase = .preparing) ∧
    (∃ t, start .pulse s = .next t ∧ t.phase = .pulsing) ∧
    (∃ t, start .wrgain s = .next t ∧ t.phase = .settingGain) ∧
    (s.anyFull = false → ∃ t, start .read s = .next t ∧ t.phase = .preparing))

/-! ### RESETT, SAMPLE, FINAL (42_accumulator.md) -/

/-- RESETT (42_accumulator.md R151): its word; refused without a controller and for a line that does not exist; else
`acc[i]` is 0, and no other line, no history, no event and nothing else changes but the result registers. -/
def Obligations.ResettZeroesOneAccumulator : Prop :=
  ∀ (s : State) (i : Nat),
    (i < 2 ^ 24 → encode (.resett i) = 0x80000000#32 ||| BitVec.ofNat 32 i) ∧
    (s.phase = .idle → s.constructed = false → exec (.resett i) s = .next (onlyResult s .notConstructed)) ∧
    (Ready s → s.nlines ≤ i → exec (.resett i) s = .next (onlyResult s .illegalCommand)) ∧
    (Ready s → ∀ l, s.lines[i]? = some l →
      exec (.resett i) s = .next (onlyResult { s with lines := s.lines.set i { l with acc := 0#24 } } .ok))

/-- SAMPLE (42_accumulator.md R152): one read of the line, `acc[i] = (2 * acc[i] + b) mod 2^24`, and nothing else but
the result registers. That `b` is 1 exactly when the level is HIGH is the spec's own decision D5, which it presumes (log 15);
the truncation is its decision D7. -/
def Obligations.SampleShiftsOneBitIn : Prop :=
  ∀ (s : State) (i : Nat) (l : Line) (b : Nat), Ready s → s.lines[i]? = some l →
    b = (if s.env.level 0 = .high then 1 else 0) →
    exec (.sample i) s = .next (onlyResult
      { s with
        lines := s.lines.set i { l with acc := BitVec.ofNat 24 ((2 * l.acc.toNat + b) % 2 ^ 24) }
        env := s.env.skip 1 0
        trace := s.trace ++ [.read i (s.env.level 0)] } .ok)

/-- FINAL (42_accumulator.md R153): its word; refused without a controller, for a line that does not exist, and for a full
history, with nothing appended; else the accumulator and its decode are appended at the same new index, a record is emitted
when `DBG = 1`, and nothing else changes but the result registers. -/
def Obligations.FinalAppendsToBothHistories : Prop :=
  ∀ (s : State) (i : Nat),
    (i < 2 ^ 24 → encode (.final i) = 0xA0000000#32 ||| BitVec.ofNat 32 i) ∧
    (s.phase = .idle → s.constructed = false → exec (.final i) s = .next (onlyResult s .notConstructed)) ∧
    (Ready s → s.nlines ≤ i → exec (.final i) s = .next (onlyResult s .illegalCommand)) ∧
    (Ready s → ∀ l, s.lines[i]? = some l →
      (∀ d, s.params.hdepth = some d → l.rawHist.length = d →
        exec (.final i) s = .next (onlyResult s .historyOverflow)) ∧
      ((∀ d, s.params.hdepth = some d → l.rawHist.length < d) →
        exec (.final i) s = .next (onlyResult
          { s with
            lines := s.lines.set i
              { l with rawHist := l.rawHist ++ [l.acc], signedHist := l.signedHist ++ [.int l.acc.toInt] }
            diag := if s.dbg = true then s.diag ++ [.values i l.acc (.int l.acc.toInt)] else s.diag } .ok)))

/-- RESETT then FINAL appends raw 0 and signed 0 (42_accumulator.md R153, corner case (d)). Rests on the spec's own
decision D18. -/
def Obligations.ResettThenFinalAppendsZero : Prop :=
  ∀ (s : State) (i : Nat) (l : Line), Ready s → s.lines[i]? = some l → s.lineFull i = false →
    ∃ t u, exec (.resett i) s = .next t ∧ exec (.final i) t = .next u ∧
      u.rawAt i l.rawHist.length = some 0#24 ∧ u.signedAt i l.signedHist.length = some (.int 0)

/-- Shifting at most 24 bits into 0 gives their number, most significant first, below `2^m` (42_accumulator.md R154).
Rests on the spec's own decision D5 (log 15). The spec derives R154 from R151 and R152. -/
def Obligations.ShiftingFromZeroSpellsTheBits : Prop :=
  ∀ bs : List Level, bs.length ≤ 24 →
    (bs.foldl shiftIn 0#24).toNat = bitsValue bs ∧ bitsValue bs < 2 ^ bs.length

/-! ### DECODE (43_decoder.md) -/

/-- DECODE is sign extension from 24 bits (43_decoder.md R173). The spec derives R173 from R170 and R172. -/
def Obligations.DecodeIsSignExtension : Prop :=
  ∀ raw : Raw,
    decodeRaw raw = .int (if raw.toNat ≤ 0x7FFFFF then (raw.toNat : Int) else (raw.toNat : Int) - 16777216)

/-- DECODE is a bijection onto [-8388608, 8388607] with inverse `v mod 2^24`, its pattern is the operand, and it is
increasing on each half, the upper half below the lower (43_decoder.md R174). The spec derives R174 from R173. -/
def Obligations.DecodeIsABijection : Prop :=
  (∀ raw raw' : Raw, decodeRaw raw = decodeRaw raw' → raw = raw') ∧
  (∀ raw : Raw, ∃ v : Int, decodeRaw raw = .int v ∧ -8388608 ≤ v ∧ v ≤ 8388607 ∧ v % 2 ^ 24 = raw.toNat) ∧
  (∀ v : Int, -8388608 ≤ v → v ≤ 8388607 → decodeRaw (BitVec.ofInt 24 v) = .int v) ∧
  (∀ raw : Raw, (decodeRaw raw).res = { valid := true, value := raw }) ∧
  (∀ (raw raw' : Raw) (v v' : Int), decodeRaw raw = .int v → decodeRaw raw' = .int v' →
    (raw.toNat < raw'.toNat → raw'.toNat ≤ 0x7FFFFF → v < v') ∧
    (0x800000 ≤ raw.toNat → raw.toNat < raw'.toNat → v < v') ∧
    (raw.toNat ≤ 0x7FFFFF → 0x800000 ≤ raw'.toNat → v' < v))

/-- DECODE (43_decoder.md R170): its word, the value it computes, and the command: refused without a controller, else `res` is
the 24-bit pattern of the value, valid, which is the operand (30_encoding.md R77), and nothing else but the result registers
changes; the result word is `0x81000000` OR raw. The layout of the result word is the spec's own decision D4 (R77), and that
`res` is the operand the spec derives in R77 from R174, so those clauses are no plain text of R170. The word is D2, the refusal
D12. -/
def Obligations.DecodeWritesOnlyTheResult : Prop :=
  ∀ raw : Raw,
    encode (.decode raw) = 0xB0000000#32 ||| raw.setWidth 32 ∧
    decodeRaw raw = .int (if raw.getLsbD 23 = true then -(((raw ^^^ 0xFFFFFF#24).toNat : Int) + 1) else (raw.toNat : Int)) ∧
    ∀ s : State,
      (s.phase = .idle → s.constructed = false → exec (.decode raw) s = .next (onlyResult s .notConstructed)) ∧
      (Ready s →
        exec (.decode raw) s = .next (onlyResult { s with res := { valid := true, value := raw } } .ok) ∧
        (onlyResult { s with res := { valid := true, value := raw } } .ok).resultWord =
          0x81000000#32 ||| raw.setWidth 32)

/-- INVALID is never stored (43_decoder.md R172). Rests on the spec's own decision D6. -/
def Obligations.InvalidIsNeverStored : Prop :=
  ∀ s t : State, (∀ l ∈ s.lines, SignedEntry.invalid ∉ l.signedHist) → step s = .next t →
    ∀ l ∈ t.lines, SignedEntry.invalid ∉ l.signedHist

/-! ### The block as a whole -/

/-- What the spec states of the state after power-on (10_state.md R39, 70_reset_and_hazards.md R230): no controller,
Idle, no diagnostics, no pin event. Rests on the spec's own decision D12. -/
def Obligations.PowerOnState : Prop :=
  (∀ (p : Params) (n : Nat),
    (State.powerOn p n).constructed = false ∧ (State.powerOn p n).phase = .idle ∧ (State.powerOn p n).diag = [] ∧
    (State.powerOn p n).trace = [] ∧ (State.powerOn p n).nlines = n) ∧
  State.reset.constructed = false ∧ State.reset.phase = .idle ∧ State.reset.diag = [] ∧ State.reset.trace = []

/-- The invariant holds at power-on of every instance, and of the reset instance (10_state.md R41; the register values
the spec leaves open are the model's, log 5). Rests on the spec's own decision D12. -/
def Obligations.PowerOnMeetsTheInvariant : Prop :=
  (∀ (p : Params) (n : Nat), 1 ≤ n → n ≤ 2 ^ 24 → Inv (State.powerOn p n)) ∧ Inv State.reset

/-- Every step keeps the invariant (10_state.md R20 to R41). Rests on the spec's own decisions D12, D18. -/
def Obligations.StepKeepsTheInvariant : Prop :=
  ∀ s t : State, Inv s → step s = .next t → Inv t

/-- Histories are append-only: a step keeps every history as a prefix, unless it accepts a CONSTRUCT with a valid
pair, which empties them all (10_state.md R23, R24, 20_memory.md R57). Rests on the spec's own decision D16. -/
def Obligations.OnlyConstructEmptiesHistories : Prop :=
  ∀ s t : State, step s = .next t →
    (∀ (i : Nat) (l : Line), s.lines[i]? = some l →
      ∃ m, t.lines[i]? = some m ∧ l.rawHist <+: m.rawHist ∧ l.signedHist <+: m.signedHist) ∨
    ((∀ l ∈ t.lines, l.rawHist = [] ∧ l.signedHist = []) ∧
      ∃ p rest dbg ch gain c, s.phase = .idle ∧ s.port = p :: rest ∧
        decode p.word = .legal (.construct dbg ch gain) ∧ cfgOf ch gain = some c)

/-- Who writes the control state (10_state.md R21, R25, R27, R32, R40): CFG only CONSTRUCT and SETCFG, DBG only
CONSTRUCT, `res` only DECODE, `constructed` is never cleared, the number of lines and the parameters never change, and
no turn of an operation in progress writes any of them. Rests on the spec's own decision D12. Turns are the model's
convention (log 10). -/
def Obligations.ControlStateWriters : Prop :=
  (∀ (i : Instr) (s t : State), exec i s = .next t →
    (t.cfg ≠ s.cfg → (∃ dbg ch gain, i = .construct dbg ch gain) ∨ (∃ ch gain, i = .setcfg ch gain)) ∧
    (t.dbg ≠ s.dbg → ∃ dbg ch gain, i = .construct dbg ch gain) ∧
    (t.constructed ≠ s.constructed → t.constructed = true ∧ ∃ dbg ch gain, i = .construct dbg ch gain) ∧
    (t.res ≠ s.res → ∃ raw, i = .decode raw) ∧
    t.nlines = s.nlines ∧ t.params = s.params) ∧
  (∀ s : State, (advance s).cfg = s.cfg ∧ (advance s).dbg = s.dbg ∧ (advance s).constructed = s.constructed ∧
    (advance s).res = s.res ∧ (advance s).nlines = s.nlines ∧ (advance s).params = s.params)

/-- The debug flag has no other effect than the diagnostics: two states that differ only in `DBG` and `diag` step to
states that differ only in them (10_state.md R27, 60_exceptions.md R216). Rests on the spec's own decision D17. -/
def Obligations.DebugFlagHasNoOtherEffect : Prop :=
  ∀ (s : State) (dbg : Bool) (diag : List Diag),
    ∃ t t', step s = .next t ∧ step { s with dbg := dbg, diag := diag } = .next t' ∧
      t' = { t with dbg := t'.dbg, diag := t'.diag }

/-- Diagnostics are only appended, and only when `DBG = 1` (10_state.md R35, 60_exceptions.md R216). Rests on the
spec's own decision D17. -/
def Obligations.DiagnosticsOnlyWhenDebug : Prop :=
  ∀ s t : State, step s = .next t → s.diag <+: t.diag ∧ (s.dbg = false → t.diag = s.diag)

/-- Events are only appended, and every pulse among them is HIGH then LOW with nothing between (20_memory.md R61,
40_sequencer.md R102). The spec derives R102 from R100, R101 and R134. -/
def Obligations.EveryPulseIsHighThenLow : Prop :=
  ∀ s t : State, step s = .next t → ∃ es, t.trace = s.trace ++ es ∧ pulseShaped es = true

/-- No instruction but CONSTRUCT writes the calibration values, nor does a turn of an operation (10_state.md R31).
Turns are the model's convention (log 10). -/
def Obligations.CalibrationIsNeverTouched : Prop :=
  (∀ (i : Instr) (s t : State), (∀ dbg ch gain, i ≠ .construct dbg ch gain) → exec i s = .next t →
    t.lines.map Line.offset = s.lines.map Line.offset ∧ t.lines.map Line.ratio = s.lines.map Line.ratio) ∧
  (∀ s : State, (advance s).lines.map Line.offset = s.lines.map Line.offset ∧
    (advance s).lines.map Line.ratio = s.lines.map Line.ratio)

/-- The host reads the lengths and the entries of the histories in Idle, and there is no entry at or past the length
(20_memory.md R56); before a CONSTRUCT has succeeded nothing is readable (10_state.md R39). That a read outside Idle gives
none is the model's choice, R56 being silent on it (log 21). Rests on the spec's own decisions D12, D13, D25. -/
def Obligations.HostReadsHistoriesInIdle : Prop :=
  ∀ (s : State) (i : Nat),
    (Ready s → ∀ l, s.lines[i]? = some l →
      s.hostLength i = some (l.rawHist.length, l.signedHist.length) ∧
      (∀ k, (h : k < l.rawHist.length) → s.hostRaw i k = some l.rawHist[k]) ∧
      (∀ k, (h : k < l.signedHist.length) → s.hostSigned i k = some l.signedHist[k]) ∧
      (∀ k, l.rawHist.length ≤ k → s.hostRaw i k = none) ∧
      (∀ k, l.signedHist.length ≤ k → s.hostSigned i k = none)) ∧
    (s.constructed = false → s.hostLength i = none ∧ ∀ k, s.hostRaw i k = none ∧ s.hostSigned i k = none) ∧
    (s.phase ≠ .idle → s.hostLength i = none ∧ ∀ k, s.hostRaw i k = none ∧ s.hostSigned i k = none)

/-- READ.X when line `i` is the first whose history is full, the exception of 30_encoding.md R86: READ refuses before its
first pin event, while READ.X ends as READ otherwise would when it is never ready or a data pulse is slow, and else gets as
far as the FINAL of line `i`, which is refused after the lines before it were appended to. Reads levels as bits (D5, log 15).
Rests on the spec's own decisions D2, D5, D9, D10, D15, D18. The spec derives the expansion's effect from R104. -/
def Obligations.ReadXStopsAtTheFullLine : Prop :=
  ∀ (s : State) (i d : Nat) (l : Line), Ready s → s.params.hdepth = some d → s.lines[i]? = some l →
    l.rawHist.length = d → (∀ j < i, s.lineFull j = false) →
    exec .read s = .next (onlyResult s .historyOverflow) ∧
    ((∀ j < 20, pollReady s.env s.nlines j = false) →
      ∃ u, execSeq (readX s.nlines) s = .next u ∧ u.ok = false ∧ u.cause = .notReady ∧ u.res = s.res ∧
        u.phase = .idle ∧ SameSetup s u ∧ u.clk = .low ∧
        u.trace = s.trace ++ [.write .low] ++ failedPolls s.env s.nlines 20 ∧
        u.env = s.env.skip (20 * s.nlines) 0 ∧ u.lines = s.lines ∧ u.diag = s.diag) ∧
    ∀ q < 20, (∀ j < q, pollReady s.env s.nlines j = false) → pollReady s.env s.nlines q = true →
      (∀ k < 24, (∀ m < k, s.params.trips (s.env.time m) = false) → s.params.trips (s.env.time k) = true →
        ∃ u, execSeq (readX s.nlines) s = .next u ∧ u.ok = false ∧ u.cause = .timingViolation ∧ u.res = s.res ∧
          u.phase = .idle ∧ SameSetup s u ∧ u.clk = .low ∧
          u.trace = s.trace ++ readyTrace s.env s.nlines q ++ dataGroups s.env s.nlines ((q + 1) * s.nlines) k ++
            pulseEvents (s.env.time k) ∧
          u.env = s.env.skip ((q + 1 + k) * s.nlines) (k + 1) ∧
          u.lines = s.lines.mapIdx (fun j m =>
            { m with acc := sampledRaw s.env s.nlines ((q + 1) * s.nlines) j k }) ∧
          u.diag = diagAfter s [.timingViolation (s.env.time k)]) ∧
      ((∀ m < 24, s.params.trips (s.env.time m) = false) →
        ∃ u, execSeq (readX s.nlines) s = .next u ∧ u.ok = false ∧ u.cause = .historyOverflow ∧ u.res = s.res ∧
          u.phase = .idle ∧ SameSetup s u ∧ u.clk = .low ∧
          u.trace = s.trace ++ readyTrace s.env s.nlines q ++ dataGroups s.env s.nlines ((q + 1) * s.nlines) 24 ∧
          u.env = s.env.skip ((q + 1 + 24) * s.nlines) 24 ∧
          u.lines = s.lines.mapIdx (fun j m =>
            if j < i then
              { m with
                acc := sampledRaw s.env s.nlines ((q + 1) * s.nlines) j 24
                rawHist := m.rawHist ++ [sampledRaw s.env s.nlines ((q + 1) * s.nlines) j 24]
                signedHist := m.signedHist ++ [.int (sampledRaw s.env s.nlines ((q + 1) * s.nlines) j 24).toInt] }
            else { m with acc := sampledRaw s.env s.nlines ((q + 1) * s.nlines) j 24 }) ∧
          u.diag = diagAfter s (finalRecords i (fun j => sampledRaw s.env s.nlines ((q + 1) * s.nlines) j 24)))
end

