-- ==== Sys2Proof/Laws/Encoding.lean ====
section
/-! SUPPORT. The fields of an assembled word (30_encoding.md R71): each field reads back, and a word whose `zero` field is 0
is the assembly of its fields. -/

namespace Sys2Proof

@[simp] theorem opcodeField_assemble (o : BitVec 4) (x : BitVec 24) : opcodeField (assemble o x) = o := by
  apply BitVec.eq_of_toNat_eq
  have := o.isLt
  have := x.isLt
  simp only [opcodeField, assemble, BitVec.extractLsb'_toNat, BitVec.toNat_append, BitVec.toNat_ofNat]
  rw [Nat.shiftRight_eq_div_pow, ← Nat.shiftLeft_add_eq_or_of_lt x.isLt, Nat.shiftLeft_eq]
  simp [Nat.shiftLeft_eq]
  omega

@[simp] theorem zeroField_assemble (o : BitVec 4) (x : BitVec 24) : zeroField (assemble o x) = 0 := by
  apply BitVec.eq_of_toNat_eq
  have := o.isLt
  have := x.isLt
  simp only [zeroField, assemble, BitVec.extractLsb'_toNat, BitVec.toNat_append, BitVec.toNat_ofNat]
  rw [Nat.shiftRight_eq_div_pow, ← Nat.shiftLeft_add_eq_or_of_lt x.isLt, Nat.shiftLeft_eq]
  simp [Nat.shiftLeft_eq]
  omega

@[simp] theorem operandField_assemble (o : BitVec 4) (x : BitVec 24) : operandField (assemble o x) = x := by
  apply BitVec.eq_of_toNat_eq
  have := o.isLt
  have := x.isLt
  simp only [operandField, assemble, BitVec.extractLsb'_toNat, BitVec.toNat_append, BitVec.toNat_ofNat]
  rw [Nat.shiftRight_eq_div_pow, ← Nat.shiftLeft_add_eq_or_of_lt x.isLt, Nat.shiftLeft_eq]
  simp [Nat.shiftLeft_eq]
  omega

/-- A word whose `zero` field is 0 is the assembly of its opcode and its operand (30_encoding.md R71). -/
theorem assemble_fields (w : Word) (h : zeroField w = 0) : assemble (opcodeField w) (operandField w) = w := by
  apply BitVec.eq_of_toNat_eq
  have hz := congrArg BitVec.toNat h
  have hw := w.isLt
  simp only [zeroField, operandField, opcodeField, assemble, BitVec.extractLsb'_toNat, BitVec.toNat_append,
    BitVec.toNat_ofNat, Nat.shiftRight_eq_div_pow] at hz ⊢
  rw [← Nat.shiftLeft_add_eq_or_of_lt (Nat.mod_lt _ (by decide)), Nat.shiftLeft_eq]
  simp [Nat.shiftLeft_eq] at hz ⊢
  omega

/-- The operand fields of format C read back (30_encoding.md R75). -/
theorem operandC_fields (dbg : Bool) (ch : Channel) (gain : GainCode) :
    dbgField (operandC dbg ch gain) = dbg ∧ channelField (operandC dbg ch gain) = ch ∧
      gainField (operandC dbg ch gain) = gain ∧ (operandC dbg ch gain).extractLsb' 4 20 = 0 ∧
      (operandC false ch gain).extractLsb' 3 21 = 0 := by
  cases dbg <;> cases ch <;> cases gain <;> decide

end Sys2Proof
end

