-- ==== Sys2Proof/Laws/State.lean ====
section
/-! SUPPORT. What each small update of the state does to each field, one lemma per field and update, so that no proof
unfolds a record update. -/

namespace Sys2Proof.Machine

variable (s : State)

/-! ### `State.emit` -/

@[simp] theorem State.emit_constructed (e : Event) : (s.emit e).constructed = s.constructed := rfl
@[simp] theorem State.emit_cfg (e : Event) : (s.emit e).cfg = s.cfg := rfl
@[simp] theorem State.emit_dbg (e : Event) : (s.emit e).dbg = s.dbg := rfl
@[simp] theorem State.emit_lines (e : Event) : (s.emit e).lines = s.lines := rfl
@[simp] theorem State.emit_clk (e : Event) : (s.emit e).clk = s.clk := rfl
@[simp] theorem State.emit_phase (e : Event) : (s.emit e).phase = s.phase := rfl
@[simp] theorem State.emit_poll (e : Event) : (s.emit e).poll = s.poll := rfl
@[simp] theorem State.emit_bit (e : Event) : (s.emit e).bit = s.bit := rfl
@[simp] theorem State.emit_tp (e : Event) : (s.emit e).tp = s.tp := rfl
@[simp] theorem State.emit_ok (e : Event) : (s.emit e).ok = s.ok := rfl
@[simp] theorem State.emit_cause (e : Event) : (s.emit e).cause = s.cause := rfl
@[simp] theorem State.emit_res (e : Event) : (s.emit e).res = s.res := rfl
@[simp] theorem State.emit_diag (e : Event) : (s.emit e).diag = s.diag := rfl
@[simp] theorem State.emit_params (e : Event) : (s.emit e).params = s.params := rfl
@[simp] theorem State.emit_running (e : Event) : (s.emit e).running = s.running := rfl
@[simp] theorem State.emit_trace (e : Event) : (s.emit e).trace = s.trace ++ [e] := rfl
@[simp] theorem State.emit_answers (e : Event) : (s.emit e).answers = s.answers := rfl
@[simp] theorem State.emit_port (e : Event) : (s.emit e).port = s.port := rfl
@[simp] theorem State.emit_env (e : Event) : (s.emit e).env = s.env := rfl
@[simp] theorem State.emit_fresh (e : Event) : (s.emit e).fresh = s.fresh := rfl

/-! ### `State.pinWrite` -/

@[simp] theorem State.pinWrite_constructed (v : Level) : (s.pinWrite v).constructed = s.constructed := rfl
@[simp] theorem State.pinWrite_cfg (v : Level) : (s.pinWrite v).cfg = s.cfg := rfl
@[simp] theorem State.pinWrite_dbg (v : Level) : (s.pinWrite v).dbg = s.dbg := rfl
@[simp] theorem State.pinWrite_lines (v : Level) : (s.pinWrite v).lines = s.lines := rfl
@[simp] theorem State.pinWrite_clk (v : Level) : (s.pinWrite v).clk = v := rfl
@[simp] theorem State.pinWrite_phase (v : Level) : (s.pinWrite v).phase = s.phase := rfl
@[simp] theorem State.pinWrite_poll (v : Level) : (s.pinWrite v).poll = s.poll := rfl
@[simp] theorem State.pinWrite_bit (v : Level) : (s.pinWrite v).bit = s.bit := rfl
@[simp] theorem State.pinWrite_tp (v : Level) : (s.pinWrite v).tp = s.tp := rfl
@[simp] theorem State.pinWrite_ok (v : Level) : (s.pinWrite v).ok = s.ok := rfl
@[simp] theorem State.pinWrite_cause (v : Level) : (s.pinWrite v).cause = s.cause := rfl
@[simp] theorem State.pinWrite_res (v : Level) : (s.pinWrite v).res = s.res := rfl
@[simp] theorem State.pinWrite_diag (v : Level) : (s.pinWrite v).diag = s.diag := rfl
@[simp] theorem State.pinWrite_params (v : Level) : (s.pinWrite v).params = s.params := rfl
@[simp] theorem State.pinWrite_running (v : Level) : (s.pinWrite v).running = s.running := rfl
@[simp] theorem State.pinWrite_trace (v : Level) : (s.pinWrite v).trace = s.trace ++ [.write v] := rfl
@[simp] theorem State.pinWrite_answers (v : Level) : (s.pinWrite v).answers = s.answers := rfl
@[simp] theorem State.pinWrite_port (v : Level) : (s.pinWrite v).port = s.port := rfl
@[simp] theorem State.pinWrite_env (v : Level) : (s.pinWrite v).env = s.env := rfl
@[simp] theorem State.pinWrite_fresh (v : Level) : (s.pinWrite v).fresh = s.fresh := rfl

/-! ### `State.wait` -/

@[simp] theorem State.wait_constructed : (s.wait).constructed = s.constructed := rfl
@[simp] theorem State.wait_cfg : (s.wait).cfg = s.cfg := rfl
@[simp] theorem State.wait_dbg : (s.wait).dbg = s.dbg := rfl
@[simp] theorem State.wait_lines : (s.wait).lines = s.lines := rfl
@[simp] theorem State.wait_clk : (s.wait).clk = s.clk := rfl
@[simp] theorem State.wait_phase : (s.wait).phase = s.phase := rfl
@[simp] theorem State.wait_poll : (s.wait).poll = s.poll := rfl
@[simp] theorem State.wait_bit : (s.wait).bit = s.bit := rfl
@[simp] theorem State.wait_tp : (s.wait).tp = s.tp := rfl
@[simp] theorem State.wait_ok : (s.wait).ok = s.ok := rfl
@[simp] theorem State.wait_cause : (s.wait).cause = s.cause := rfl
@[simp] theorem State.wait_res : (s.wait).res = s.res := rfl
@[simp] theorem State.wait_diag : (s.wait).diag = s.diag := rfl
@[simp] theorem State.wait_params : (s.wait).params = s.params := rfl
@[simp] theorem State.wait_running : (s.wait).running = s.running := rfl
@[simp] theorem State.wait_trace : (s.wait).trace = s.trace ++ [.wait] := rfl
@[simp] theorem State.wait_answers : (s.wait).answers = s.answers := rfl
@[simp] theorem State.wait_port : (s.wait).port = s.port := rfl
@[simp] theorem State.wait_env : (s.wait).env = s.env := rfl
@[simp] theorem State.wait_fresh : (s.wait).fresh = s.fresh := rfl

/-! ### `State.setLine` -/

@[simp] theorem State.setLine_constructed (i : Nat) (f : Line → Line) : (s.setLine i f).constructed = s.constructed := rfl
@[simp] theorem State.setLine_cfg (i : Nat) (f : Line → Line) : (s.setLine i f).cfg = s.cfg := rfl
@[simp] theorem State.setLine_dbg (i : Nat) (f : Line → Line) : (s.setLine i f).dbg = s.dbg := rfl
@[simp] theorem State.setLine_lines (i : Nat) (f : Line → Line) : (s.setLine i f).lines = s.lines.modify i f := rfl
@[simp] theorem State.setLine_clk (i : Nat) (f : Line → Line) : (s.setLine i f).clk = s.clk := rfl
@[simp] theorem State.setLine_phase (i : Nat) (f : Line → Line) : (s.setLine i f).phase = s.phase := rfl
@[simp] theorem State.setLine_poll (i : Nat) (f : Line → Line) : (s.setLine i f).poll = s.poll := rfl
@[simp] theorem State.setLine_bit (i : Nat) (f : Line → Line) : (s.setLine i f).bit = s.bit := rfl
@[simp] theorem State.setLine_tp (i : Nat) (f : Line → Line) : (s.setLine i f).tp = s.tp := rfl
@[simp] theorem State.setLine_ok (i : Nat) (f : Line → Line) : (s.setLine i f).ok = s.ok := rfl
@[simp] theorem State.setLine_cause (i : Nat) (f : Line → Line) : (s.setLine i f).cause = s.cause := rfl
@[simp] theorem State.setLine_res (i : Nat) (f : Line → Line) : (s.setLine i f).res = s.res := rfl
@[simp] theorem State.setLine_diag (i : Nat) (f : Line → Line) : (s.setLine i f).diag = s.diag := rfl
@[simp] theorem State.setLine_params (i : Nat) (f : Line → Line) : (s.setLine i f).params = s.params := rfl
@[simp] theorem State.setLine_running (i : Nat) (f : Line → Line) : (s.setLine i f).running = s.running := rfl
@[simp] theorem State.setLine_trace (i : Nat) (f : Line → Line) : (s.setLine i f).trace = s.trace := rfl
@[simp] theorem State.setLine_answers (i : Nat) (f : Line → Line) : (s.setLine i f).answers = s.answers := rfl
@[simp] theorem State.setLine_port (i : Nat) (f : Line → Line) : (s.setLine i f).port = s.port := rfl
@[simp] theorem State.setLine_env (i : Nat) (f : Line → Line) : (s.setLine i f).env = s.env := rfl
@[simp] theorem State.setLine_fresh (i : Nat) (f : Line → Line) : (s.setLine i f).fresh = s.fresh := rfl

/-! ### `State.goto` -/

@[simp] theorem State.goto_constructed (p : Phase) : (s.goto p).constructed = s.constructed := rfl
@[simp] theorem State.goto_cfg (p : Phase) : (s.goto p).cfg = s.cfg := rfl
@[simp] theorem State.goto_dbg (p : Phase) : (s.goto p).dbg = s.dbg := rfl
@[simp] theorem State.goto_lines (p : Phase) : (s.goto p).lines = s.lines := rfl
@[simp] theorem State.goto_clk (p : Phase) : (s.goto p).clk = s.clk := rfl
@[simp] theorem State.goto_phase (p : Phase) : (s.goto p).phase = p := rfl
@[simp] theorem State.goto_poll (p : Phase) : (s.goto p).poll = s.poll := rfl
@[simp] theorem State.goto_bit (p : Phase) : (s.goto p).bit = s.bit := rfl
@[simp] theorem State.goto_tp (p : Phase) : (s.goto p).tp = s.tp := rfl
@[simp] theorem State.goto_ok (p : Phase) : (s.goto p).ok = s.ok := rfl
@[simp] theorem State.goto_cause (p : Phase) : (s.goto p).cause = s.cause := rfl
@[simp] theorem State.goto_res (p : Phase) : (s.goto p).res = s.res := rfl
@[simp] theorem State.goto_diag (p : Phase) : (s.goto p).diag = s.diag := rfl
@[simp] theorem State.goto_params (p : Phase) : (s.goto p).params = s.params := rfl
@[simp] theorem State.goto_running (p : Phase) : (s.goto p).running = s.running := rfl
@[simp] theorem State.goto_trace (p : Phase) : (s.goto p).trace = s.trace := rfl
@[simp] theorem State.goto_answers (p : Phase) : (s.goto p).answers = s.answers := rfl
@[simp] theorem State.goto_port (p : Phase) : (s.goto p).port = s.port := rfl
@[simp] theorem State.goto_env (p : Phase) : (s.goto p).env = s.env := rfl
@[simp] theorem State.goto_fresh (p : Phase) : (s.goto p).fresh = s.fresh := rfl

/-! ### `State.enter` -/

@[simp] theorem State.enter_constructed (r : Running) (p : Phase) : (s.enter r p).constructed = s.constructed := rfl
@[simp] theorem State.enter_cfg (r : Running) (p : Phase) : (s.enter r p).cfg = s.cfg := rfl
@[simp] theorem State.enter_dbg (r : Running) (p : Phase) : (s.enter r p).dbg = s.dbg := rfl
@[simp] theorem State.enter_lines (r : Running) (p : Phase) : (s.enter r p).lines = s.lines := rfl
@[simp] theorem State.enter_clk (r : Running) (p : Phase) : (s.enter r p).clk = s.clk := rfl
@[simp] theorem State.enter_phase (r : Running) (p : Phase) : (s.enter r p).phase = p := rfl
@[simp] theorem State.enter_poll (r : Running) (p : Phase) : (s.enter r p).poll = s.poll := rfl
@[simp] theorem State.enter_bit (r : Running) (p : Phase) : (s.enter r p).bit = s.bit := rfl
@[simp] theorem State.enter_tp (r : Running) (p : Phase) : (s.enter r p).tp = s.tp := rfl
@[simp] theorem State.enter_ok (r : Running) (p : Phase) : (s.enter r p).ok = s.ok := rfl
@[simp] theorem State.enter_cause (r : Running) (p : Phase) : (s.enter r p).cause = s.cause := rfl
@[simp] theorem State.enter_res (r : Running) (p : Phase) : (s.enter r p).res = s.res := rfl
@[simp] theorem State.enter_diag (r : Running) (p : Phase) : (s.enter r p).diag = s.diag := rfl
@[simp] theorem State.enter_params (r : Running) (p : Phase) : (s.enter r p).params = s.params := rfl
@[simp] theorem State.enter_running (r : Running) (p : Phase) : (s.enter r p).running = some r := rfl
@[simp] theorem State.enter_trace (r : Running) (p : Phase) : (s.enter r p).trace = s.trace := rfl
@[simp] theorem State.enter_answers (r : Running) (p : Phase) : (s.enter r p).answers = s.answers := rfl
@[simp] theorem State.enter_port (r : Running) (p : Phase) : (s.enter r p).port = s.port := rfl
@[simp] theorem State.enter_env (r : Running) (p : Phase) : (s.enter r p).env = s.env := rfl
@[simp] theorem State.enter_fresh (r : Running) (p : Phase) : (s.enter r p).fresh = s.fresh := rfl

/-! ### `State.freeCounters` -/

@[simp] theorem State.freeCounters_constructed : (s.freeCounters).constructed = s.constructed := rfl
@[simp] theorem State.freeCounters_cfg : (s.freeCounters).cfg = s.cfg := rfl
@[simp] theorem State.freeCounters_dbg : (s.freeCounters).dbg = s.dbg := rfl
@[simp] theorem State.freeCounters_lines : (s.freeCounters).lines = s.lines := rfl
@[simp] theorem State.freeCounters_clk : (s.freeCounters).clk = s.clk := rfl
@[simp] theorem State.freeCounters_phase : (s.freeCounters).phase = s.phase := rfl
@[simp] theorem State.freeCounters_poll : (s.freeCounters).poll = (Config.freePoll s.fresh).val := rfl
@[simp] theorem State.freeCounters_bit : (s.freeCounters).bit = (Config.freeBit s.fresh).val := rfl
@[simp] theorem State.freeCounters_tp : (s.freeCounters).tp = (Config.freeTp s.fresh).val := rfl
@[simp] theorem State.freeCounters_ok : (s.freeCounters).ok = s.ok := rfl
@[simp] theorem State.freeCounters_cause : (s.freeCounters).cause = s.cause := rfl
@[simp] theorem State.freeCounters_res : (s.freeCounters).res = s.res := rfl
@[simp] theorem State.freeCounters_diag : (s.freeCounters).diag = s.diag := rfl
@[simp] theorem State.freeCounters_params : (s.freeCounters).params = s.params := rfl
@[simp] theorem State.freeCounters_running : (s.freeCounters).running = s.running := rfl
@[simp] theorem State.freeCounters_trace : (s.freeCounters).trace = s.trace := rfl
@[simp] theorem State.freeCounters_answers : (s.freeCounters).answers = s.answers := rfl
@[simp] theorem State.freeCounters_port : (s.freeCounters).port = s.port := rfl
@[simp] theorem State.freeCounters_env : (s.freeCounters).env = s.env := rfl
@[simp] theorem State.freeCounters_fresh : (s.freeCounters).fresh = s.fresh + 1 := rfl

/-! ### `State.complete` -/

@[simp] theorem State.complete_constructed (c : Cause) : (s.complete c).constructed = s.constructed := rfl
@[simp] theorem State.complete_cfg (c : Cause) : (s.complete c).cfg = s.cfg := rfl
@[simp] theorem State.complete_dbg (c : Cause) : (s.complete c).dbg = s.dbg := rfl
@[simp] theorem State.complete_lines (c : Cause) : (s.complete c).lines = s.lines := rfl
@[simp] theorem State.complete_clk (c : Cause) : (s.complete c).clk = s.clk := rfl
@[simp] theorem State.complete_phase (c : Cause) : (s.complete c).phase = s.phase := rfl
@[simp] theorem State.complete_poll (c : Cause) : (s.complete c).poll = s.poll := rfl
@[simp] theorem State.complete_bit (c : Cause) : (s.complete c).bit = s.bit := rfl
@[simp] theorem State.complete_tp (c : Cause) : (s.complete c).tp = s.tp := rfl
@[simp] theorem State.complete_ok (c : Cause) : (s.complete c).ok = decide (c = .ok) := rfl
@[simp] theorem State.complete_cause (c : Cause) : (s.complete c).cause = c := rfl
@[simp] theorem State.complete_res (c : Cause) : (s.complete c).res = s.res := rfl
@[simp] theorem State.complete_diag (c : Cause) : (s.complete c).diag = s.diag := rfl
@[simp] theorem State.complete_params (c : Cause) : (s.complete c).params = s.params := rfl
@[simp] theorem State.complete_running (c : Cause) : (s.complete c).running = s.running := rfl
@[simp] theorem State.complete_trace (c : Cause) : (s.complete c).trace = s.trace := rfl
@[simp] theorem State.complete_answers (c : Cause) : (s.complete c).answers = s.answers ++ [s.answer c] := rfl
@[simp] theorem State.complete_port (c : Cause) : (s.complete c).port = s.port := rfl
@[simp] theorem State.complete_env (c : Cause) : (s.complete c).env = s.env := rfl
@[simp] theorem State.complete_fresh (c : Cause) : (s.complete c).fresh = s.fresh := rfl

/-! ### `State.answerBusy` -/

@[simp] theorem State.answerBusy_constructed : (s.answerBusy).constructed = s.constructed := rfl
@[simp] theorem State.answerBusy_cfg : (s.answerBusy).cfg = s.cfg := rfl
@[simp] theorem State.answerBusy_dbg : (s.answerBusy).dbg = s.dbg := rfl
@[simp] theorem State.answerBusy_lines : (s.answerBusy).lines = s.lines := rfl
@[simp] theorem State.answerBusy_clk : (s.answerBusy).clk = s.clk := rfl
@[simp] theorem State.answerBusy_phase : (s.answerBusy).phase = s.phase := rfl
@[simp] theorem State.answerBusy_poll : (s.answerBusy).poll = s.poll := rfl
@[simp] theorem State.answerBusy_bit : (s.answerBusy).bit = s.bit := rfl
@[simp] theorem State.answerBusy_tp : (s.answerBusy).tp = s.tp := rfl
@[simp] theorem State.answerBusy_ok : (s.answerBusy).ok = s.ok := rfl
@[simp] theorem State.answerBusy_cause : (s.answerBusy).cause = s.cause := rfl
@[simp] theorem State.answerBusy_res : (s.answerBusy).res = s.res := rfl
@[simp] theorem State.answerBusy_diag : (s.answerBusy).diag = s.diag := rfl
@[simp] theorem State.answerBusy_params : (s.answerBusy).params = s.params := rfl
@[simp] theorem State.answerBusy_running : (s.answerBusy).running = s.running := rfl
@[simp] theorem State.answerBusy_trace : (s.answerBusy).trace = s.trace := rfl
@[simp] theorem State.answerBusy_answers : (s.answerBusy).answers = s.answers ++ [s.answer .busy] := rfl
@[simp] theorem State.answerBusy_port : (s.answerBusy).port = s.port := rfl
@[simp] theorem State.answerBusy_env : (s.answerBusy).env = s.env := rfl
@[simp] theorem State.answerBusy_fresh : (s.answerBusy).fresh = s.fresh := rfl

/-! ### `State.endOperation` -/

@[simp] theorem State.endOperation_constructed (c : Cause) : (s.endOperation c).constructed = s.constructed := rfl
@[simp] theorem State.endOperation_cfg (c : Cause) : (s.endOperation c).cfg = s.cfg := rfl
@[simp] theorem State.endOperation_dbg (c : Cause) : (s.endOperation c).dbg = s.dbg := rfl
@[simp] theorem State.endOperation_lines (c : Cause) : (s.endOperation c).lines = s.lines := rfl
@[simp] theorem State.endOperation_clk (c : Cause) : (s.endOperation c).clk = s.clk := rfl
@[simp] theorem State.endOperation_phase (c : Cause) : (s.endOperation c).phase = .idle := rfl
@[simp] theorem State.endOperation_poll (c : Cause) : (s.endOperation c).poll = (Config.freePoll s.fresh).val := rfl
@[simp] theorem State.endOperation_bit (c : Cause) : (s.endOperation c).bit = (Config.freeBit s.fresh).val := rfl
@[simp] theorem State.endOperation_tp (c : Cause) : (s.endOperation c).tp = (Config.freeTp s.fresh).val := rfl
@[simp] theorem State.endOperation_ok (c : Cause) : (s.endOperation c).ok = decide (c = .ok) := rfl
@[simp] theorem State.endOperation_cause (c : Cause) : (s.endOperation c).cause = c := rfl
@[simp] theorem State.endOperation_res (c : Cause) : (s.endOperation c).res = s.res := rfl
@[simp] theorem State.endOperation_diag (c : Cause) : (s.endOperation c).diag = s.diag := rfl
@[simp] theorem State.endOperation_params (c : Cause) : (s.endOperation c).params = s.params := rfl
@[simp] theorem State.endOperation_running (c : Cause) : (s.endOperation c).running = none := rfl
@[simp] theorem State.endOperation_trace (c : Cause) : (s.endOperation c).trace = s.trace := rfl
@[simp] theorem State.endOperation_answers (c : Cause) : (s.endOperation c).answers = s.answers ++ [s.answer c] := rfl
@[simp] theorem State.endOperation_port (c : Cause) : (s.endOperation c).port = s.port := rfl
@[simp] theorem State.endOperation_env (c : Cause) : (s.endOperation c).env = s.env := rfl
@[simp] theorem State.endOperation_fresh (c : Cause) : (s.endOperation c).fresh = s.fresh + 1 := rfl

/-! ### `State.emitDiag` -/

@[simp] theorem State.emitDiag_constructed (r : Diag) : (s.emitDiag r).constructed = s.constructed := by
  unfold State.emitDiag; split <;> rfl
@[simp] theorem State.emitDiag_cfg (r : Diag) : (s.emitDiag r).cfg = s.cfg := by
  unfold State.emitDiag; split <;> rfl
@[simp] theorem State.emitDiag_dbg (r : Diag) : (s.emitDiag r).dbg = s.dbg := by
  unfold State.emitDiag; split <;> rfl
@[simp] theorem State.emitDiag_lines (r : Diag) : (s.emitDiag r).lines = s.lines := by
  unfold State.emitDiag; split <;> rfl
@[simp] theorem State.emitDiag_clk (r : Diag) : (s.emitDiag r).clk = s.clk := by
  unfold State.emitDiag; split <;> rfl
@[simp] theorem State.emitDiag_phase (r : Diag) : (s.emitDiag r).phase = s.phase := by
  unfold State.emitDiag; split <;> rfl
@[simp] theorem State.emitDiag_poll (r : Diag) : (s.emitDiag r).poll = s.poll := by
  unfold State.emitDiag; split <;> rfl
@[simp] theorem State.emitDiag_bit (r : Diag) : (s.emitDiag r).bit = s.bit := by
  unfold State.emitDiag; split <;> rfl
@[simp] theorem State.emitDiag_tp (r : Diag) : (s.emitDiag r).tp = s.tp := by
  unfold State.emitDiag; split <;> rfl
@[simp] theorem State.emitDiag_ok (r : Diag) : (s.emitDiag r).ok = s.ok := by
  unfold State.emitDiag; split <;> rfl
@[simp] theorem State.emitDiag_cause (r : Diag) : (s.emitDiag r).cause = s.cause := by
  unfold State.emitDiag; split <;> rfl
@[simp] theorem State.emitDiag_res (r : Diag) : (s.emitDiag r).res = s.res := by
  unfold State.emitDiag; split <;> rfl
@[simp] theorem State.emitDiag_diag (r : Diag) : (s.emitDiag r).diag = if s.dbg then s.diag ++ [r] else s.diag := by
  unfold State.emitDiag; split <;> rfl
@[simp] theorem State.emitDiag_params (r : Diag) : (s.emitDiag r).params = s.params := by
  unfold State.emitDiag; split <;> rfl
@[simp] theorem State.emitDiag_running (r : Diag) : (s.emitDiag r).running = s.running := by
  unfold State.emitDiag; split <;> rfl
@[simp] theorem State.emitDiag_trace (r : Diag) : (s.emitDiag r).trace = s.trace := by
  unfold State.emitDiag; split <;> rfl
@[simp] theorem State.emitDiag_answers (r : Diag) : (s.emitDiag r).answers = s.answers := by
  unfold State.emitDiag; split <;> rfl
@[simp] theorem State.emitDiag_port (r : Diag) : (s.emitDiag r).port = s.port := by
  unfold State.emitDiag; split <;> rfl
@[simp] theorem State.emitDiag_env (r : Diag) : (s.emitDiag r).env = s.env := by
  unfold State.emitDiag; split <;> rfl
@[simp] theorem State.emitDiag_fresh (r : Diag) : (s.emitDiag r).fresh = s.fresh := by
  unfold State.emitDiag; split <;> rfl

end Sys2Proof.Machine
end

