-- ==== Sys2Proof/Laws/Ops.lean ====
section
/-! SUPPORT. One specification lemma per shared operation: draws, pin accesses, the fan-out over lines. Later proofs cite
these and do not unfold the operations. -/

namespace Sys2Proof.Machine

/-! ### Draws -/

@[simp] theorem Draws.skip_level (d : Draws) (a b k : Nat) : (d.skip a b).level k = d.level (a + k) := by
  simp [Draws.skip, Draws.level, List.getD_eq_getElem?_getD, Nat.add_assoc]

@[simp] theorem Draws.skip_time (d : Draws) (a b k : Nat) : (d.skip a b).time k = d.time (b + k) := by
  simp [Draws.skip, Draws.time, List.getD_eq_getElem?_getD, Nat.add_assoc]

@[simp] theorem Draws.skip_skip (d : Draws) (a b a' b' : Nat) : (d.skip a b).skip a' b' = d.skip (a + a') (b + b') := by
  simp [Draws.skip, Nat.add_assoc]

@[simp] theorem Draws.skip_zero (d : Draws) : d.skip 0 0 = d := by simp [Draws.skip]

/-! ### The fan-out -/

/-- A quantity that no turn of the fan-out changes is unchanged by all of it. -/
theorem foldl_frame {α β : Type} (f : State → α → State) (π : State → β) (h : ∀ s i, π (f s i) = π s)
    (is : List α) (s : State) : π (is.foldl f s) = π s := by
  induction is generalizing s with
  | nil => rfl
  | cons i is ih => rw [List.foldl_cons, ih, h]

theorem State.eachLine_frame {β : Type} (f : State → Nat → State) (π : State → β) (h : ∀ s i, π (f s i) = π s)
    (s : State) : π (s.eachLine f) = π s :=
  foldl_frame f π h _ s

/-- A map that ignores the index. -/
theorem mapIdx_const {α β : Type} (g : α → β) (ls : List α) : (ls.mapIdx fun _ l => g l) = ls.map g := by
  apply List.ext_getElem?
  simp [List.getElem?_mapIdx]

/-- `modify` on the lines up to `n`, one after another, is one map over the first `n` lines. -/
theorem foldl_modify (g : Nat → Line → Line) (n : Nat) (ls : List Line) :
    (List.range n).foldl (fun ls i => ls.modify i (g i)) ls = ls.mapIdx fun i l => if i < n then g i l else l := by
  induction n with
  | zero => simp [mapIdx_const]
  | succ n ih =>
    rw [List.range_succ, List.foldl_concat, ih]
    apply List.ext_getElem?
    intro k
    simp only [List.getElem?_modify, List.getElem?_mapIdx]
    rcases Nat.lt_trichotomy k n with h | h | h
    · simp [h, Nat.lt_succ_of_lt h, Nat.ne_of_gt h]
    · subst h
      cases ls[k]? <;> simp
    · simp [Nat.not_lt_of_gt h, Nat.not_lt_of_ge (Nat.succ_le_of_lt h), Nat.ne_of_lt h]

theorem mapIdx_all (g : Nat → Line → Line) (ls : List Line) :
    (ls.mapIdx fun i l => if i < ls.length then g i l else l) = ls.mapIdx g := by
  apply List.ext_getElem?
  intro k
  simp only [List.getElem?_mapIdx]
  rcases Nat.lt_or_ge k ls.length with h | h
  · simp [h]
  · simp [h]

/-! ### Pins -/

theorem State.pinRead_eq (s : State) (i : Nat) :
    s.pinRead i = (s.env.level 0,
      { s with env := s.env.skip 1 0, trace := s.trace ++ [.read i (s.env.level 0)] }) := rfl

/-- PULSE (40_sequencer.md R101), everything it does. -/
theorem State.pulse_eq (s : State) :
    s.pulse =
      (if s.params.trips (s.env.time 0) then .timingViolation else .ok,
        { s with
          clk := .low
          trace := s.trace ++ pulseEvents (s.env.time 0)
          env := s.env.skip 0 1
          diag := if s.params.trips (s.env.time 0) then diagAfter s [.timingViolation (s.env.time 0)] else s.diag }) := by
  by_cases h : s.params.trips (s.env.time 0) = true <;>
    simp [State.pulse, State.elapsed, State.pinWrite, State.emit, State.emitDiag, pulseEvents, diagAfter, h]
  split <;> simp_all

theorem readEvents_zero (d : Draws) (base : Nat) : readEvents d 0 base = [] := rfl

theorem readEvents_succ (d : Draws) (n base : Nat) :
    readEvents d (n + 1) base = readEvents d n base ++ [.read n (d.level (base + n))] := by
  simp [readEvents, List.range_succ]

/-- The reads of a fan-out, whatever else each turn does to the lines. -/
theorem pollFold_eq (n : Nat) (s : State) :
    (List.range n).foldl
        (fun (r : Bool × State) i => (r.1 && decide ((r.2.pinRead i).1 = .low), (r.2.pinRead i).2)) (true, s) =
      (decide (∀ i < n, s.env.level i = .low),
        { s with env := s.env.skip n 0, trace := s.trace ++ readEvents s.env n 0 }) := by
  induction n with
  | zero => simp [readEvents]
  | succ n ih =>
    rw [List.range_succ, List.foldl_concat, ih]
    simp only [State.pinRead_eq, readEvents_succ, Draws.skip_level, Draws.skip_skip, Nat.add_zero, Nat.zero_add,
      Prod.mk.injEq, List.append_assoc, and_true]
    rw [Bool.eq_iff_iff]
    simp only [Bool.and_eq_true, decide_eq_true_eq, Nat.lt_succ_iff_lt_or_eq, or_imp, forall_and, forall_eq]

/-- One poll (40_sequencer.md R100), everything it does. -/
theorem State.pollOnce_eq (s : State) :
    s.pollOnce =
      (decide (∀ i < s.nlines, s.env.level i = .low),
        { s with
          env := s.env.skip s.nlines 0
          trace := s.trace ++ readEvents s.env s.nlines 0
          poll := s.poll + 1 }) := by
  unfold State.pollOnce State.pollLines
  rw [pollFold_eq]

/-! ### The lines -/

/-- RESETT on every line (42_accumulator.md R151). -/
theorem State.eachLine_resett (s : State) :
    s.eachLine State.resett = { s with lines := s.lines.map fun l => { l with acc := 0 } } := by
  have key : ∀ (is : List Nat) (s : State), is.foldl State.resett s =
      { s with lines := is.foldl (fun ls i => ls.modify i fun l => { l with acc := 0 }) s.lines } := by
    intro is
    induction is with
    | nil => intro s; rfl
    | cons i is ih => intro s; rw [List.foldl_cons, ih]; rfl
  unfold State.eachLine
  rw [key, foldl_modify (fun _ l => { l with acc := 0 }), State.nlines,
    mapIdx_all (fun _ l => { l with acc := 0 }), mapIdx_const]

/-- SAMPLE on the first `n` lines (42_accumulator.md R152). -/
theorem sampleFold_eq (n : Nat) (s : State) :
    (List.range n).foldl State.sample s =
      { s with
        env := s.env.skip n 0
        trace := s.trace ++ readEvents s.env n 0
        lines := (List.range n).foldl
          (fun ls i => ls.modify i fun l => { l with acc := shiftIn l.acc (s.env.level i) }) s.lines } := by
  induction n with
  | zero => simp [readEvents]
  | succ n ih =>
    rw [List.range_succ, List.foldl_concat, ih, List.foldl_concat]
    simp [State.sample, State.pinRead_eq, State.setLine, readEvents_succ]

/-- SAMPLE on every line and the count of the data pulse (40_sequencer.md R104), everything it does. -/
theorem State.sampleLines_eq (s : State) :
    s.sampleLines =
      { s with
        env := s.env.skip s.nlines 0
        trace := s.trace ++ readEvents s.env s.nlines 0
        lines := s.lines.mapIdx fun i l => { l with acc := shiftIn l.acc (s.env.level i) }
        bit := s.bit + 1 } := by
  unfold State.sampleLines State.eachLine
  rw [sampleFold_eq, foldl_modify (fun i l => { l with acc := shiftIn l.acc (s.env.level i) }), State.nlines,
    mapIdx_all (fun i l => { l with acc := shiftIn l.acc (s.env.level i) })]

/-- READ's entry into Sampling (40_sequencer.md R104), everything it does. -/
theorem State.startSampling_eq (s : State) :
    s.startSampling =
      { s with phase := .sampling, lines := s.lines.map fun l => { l with acc := 0 }, bit := 0 } := by
  unfold State.startSampling
  rw [State.eachLine_resett]
  rfl

end Sys2Proof.Machine
end

