-- ==== Sys2Proof/Laws/Loops.lean ====
section
/-! SUPPORT. One specification lemma per loop of the sequencer: PREPARE's polls, WRGAIN's trailing pulses, READ's data pulses
and Finalizing (40_sequencer.md R100, R104, 41_chgain_encoder.md R134), each as a function of the draws. -/

namespace Sys2Proof.Machine

/-! ### Events of shifted draws -/

@[simp] theorem readEvents_skip (d : Draws) (a b n base : Nat) :
    readEvents (d.skip a b) n base = readEvents d n (a + base) := by
  simp [readEvents, Nat.add_assoc]

theorem flatMap_range_succ {α : Type} (f : Nat → List α) (k : Nat) :
    (List.range (k + 1)).flatMap f = (List.range k).flatMap f ++ f k := by
  simp [List.range_succ]

theorem flatMap_range_succ_left {α : Type} (f : Nat → List α) (k : Nat) :
    (List.range (k + 1)).flatMap f = f 0 ++ (List.range k).flatMap fun m => f (m + 1) := by
  simp [List.range_succ_eq_map, List.flatMap_map]

/-! ### PREPARE -/

/-- The state after `q` polls that failed, each with its wait. -/
def afterFailedPolls (s : State) (q : Nat) : State :=
  { s with
    env := s.env.skip (q * s.nlines) 0
    trace := s.trace ++ failedPolls s.env s.nlines q
    poll := s.poll + q }

theorem afterFailedPolls_zero (s : State) : afterFailedPolls s 0 = s := by
  simp [afterFailedPolls, failedPolls]

theorem afterFailedPolls_succ (s : State) (q : Nat) :
    afterFailedPolls s (q + 1) = (afterFailedPolls s q).pollOnce.2.wait := by
  rw [State.pollOnce_eq]
  simp [afterFailedPolls, failedPolls, flatMap_range_succ, State.wait, State.emit, Nat.add_mul, State.nlines,
    Nat.add_assoc]

/-- Poll number `q` of the draws is the next poll after `q` failed ones. -/
theorem afterFailedPolls_ready (s : State) (q : Nat) :
    (afterFailedPolls s q).pollOnce.1 = pollReady s.env s.nlines q := by
  rw [State.pollOnce_eq]
  exact decide_eq_decide.mpr (by simp [afterFailedPolls, State.nlines])

/-- PREPARE's loop passes the polls that fail, one after another (40_sequencer.md R100). -/
theorem prepareLoop_failed (s : State) (q : Nat) : ∀ n, (∀ j < q, pollReady s.env s.nlines j = false) →
    prepareLoop (q + n) s = prepareLoop n (afterFailedPolls s q) := by
  induction q with
  | zero => intro n _; simp [afterFailedPolls_zero]
  | succ q ih =>
    intro n h
    have hq : (afterFailedPolls s q).pollOnce.1 = false := by
      rw [afterFailedPolls_ready]; exact h q (Nat.lt_succ_self q)
    rw [Nat.succ_add_eq_add_succ, ih (n + 1) fun j hj => h j (Nat.lt_succ_of_lt hj), prepareLoop, hq,
      afterFailedPolls_succ]
    rfl

/-- PREPARE's loop when poll number `q` is the first that reads every line LOW (40_sequencer.md R100). -/
theorem prepareLoop_ready (s : State) (q n : Nat) (hq : q < n) (hr : pollReady s.env s.nlines q = true)
    (h : ∀ j < q, pollReady s.env s.nlines j = false) :
    prepareLoop n s = (.ok, (afterFailedPolls s q).pollOnce.2) := by
  obtain ⟨m, rfl⟩ : ∃ m, n = q + (m + 1) := ⟨n - q - 1, by omega⟩
  rw [prepareLoop_failed s q _ h, prepareLoop, afterFailedPolls_ready, hr]
  rfl

/-- PREPARE's loop when every poll fails (40_sequencer.md R100). -/
theorem prepareLoop_exhausted (s : State) (n : Nat) (h : ∀ j < n, pollReady s.env s.nlines j = false) :
    prepareLoop n s = (.notReady, afterFailedPolls s n) := by
  have := prepareLoop_failed s n 0 h
  simpa [prepareLoop] using this

/-! ### WRGAIN -/

/-- The state after `k` pulses that passed the guard, without sampling. -/
def afterBarePulses (s : State) (k : Nat) : State :=
  { s with
    clk := if k = 0 then s.clk else .low
    env := s.env.skip 0 k
    trace := s.trace ++ barePulses s.env 0 k
    tp := s.tp + k }

theorem afterBarePulses_zero (s : State) : afterBarePulses s 0 = s := by
  simp [afterBarePulses, barePulses]

/-- The pulse after `k` passed ones draws elapsed time number `k`. -/
theorem afterBarePulses_pulse (s : State) (k : Nat) (h : s.params.trips (s.env.time k) = false) :
    (afterBarePulses s k).pulse = (.ok, { afterBarePulses s (k + 1) with tp := s.tp + k }) := by
  rw [State.pulse_eq]
  simp [afterBarePulses, barePulses, flatMap_range_succ, h]

theorem wrgainLoop_passed (s : State) (k : Nat) : ∀ n, (∀ m < k, s.params.trips (s.env.time m) = false) →
    wrgainLoop (k + n) s = wrgainLoop n (afterBarePulses s k) := by
  induction k with
  | zero => intro n _; simp [afterBarePulses_zero]
  | succ k ih =>
    intro n h
    rw [Nat.succ_add_eq_add_succ, ih (n + 1) fun j hj => h j (Nat.lt_succ_of_lt hj), wrgainLoop,
      afterBarePulses_pulse s k (h k (Nat.lt_succ_self k))]
    rfl

/-- WRGAIN's loop when every pulse passes (41_chgain_encoder.md R134). -/
theorem wrgainLoop_all (s : State) (n : Nat) (h : ∀ m < n, s.params.trips (s.env.time m) = false) :
    wrgainLoop n s = (.ok, afterBarePulses s n) := by
  simpa [wrgainLoop] using wrgainLoop_passed s n 0 h

/-- WRGAIN's loop when pulse number `k` is the first that fails (41_chgain_encoder.md R134). -/
theorem wrgainLoop_slow (s : State) (k n : Nat) (hk : k < n) (ht : s.params.trips (s.env.time k) = true)
    (h : ∀ m < k, s.params.trips (s.env.time m) = false) :
    wrgainLoop n s = (.timingViolation,
      { s with
        clk := .low
        env := s.env.skip 0 (k + 1)
        trace := s.trace ++ barePulses s.env 0 (k + 1)
        tp := s.tp + k
        diag := diagAfter s [.timingViolation (s.env.time k)] }) := by
  obtain ⟨m, rfl⟩ : ∃ m, n = k + (m + 1) := ⟨n - k - 1, by omega⟩
  rw [wrgainLoop_passed s k _ h, wrgainLoop, State.pulse_eq]
  simp [afterBarePulses, barePulses, flatMap_range_succ, ht, diagAfter]

/-! ### READ's data pulses -/

/-- An accumulator after `k` samples of line `i`, the first drawing level `base + i`. -/
def shifted (d : Draws) (n base i : Nat) (acc : Raw) : Nat → Raw
  | 0 => acc
  | k + 1 => shiftIn (shifted d n base i acc k) (d.level (base + k * n + i))

theorem shiftIn_ofNat (v : Nat) (b : Level) :
    shiftIn (BitVec.ofNat 24 v) b = BitVec.ofNat 24 (2 * v + (levelBit b).toNat) := by
  have h : (BitVec.ofNat 24 v) <<< 1 = BitVec.ofNat 24 (2 * v) := by
    apply BitVec.eq_of_toNat_eq
    simp [Nat.shiftLeft_eq, Nat.mul_comm]
  cases b with
  | low => simp [shiftIn, levelBit, h]
  | high =>
    have e : BitVec.ofNat 24 (2 * v + 1) = BitVec.ofNat 24 (2 * v) + 1#24 := by
      rw [← BitVec.ofNat_add]
    have hd : BitVec.ofNat 24 (2 * v) &&& 1#24 = 0#24 := by
      apply BitVec.eq_of_toNat_eq
      simp [Nat.and_one_is_mod]
    simp only [shiftIn, h, levelBit]
    rw [show (1 : Raw).toNat = 1 from rfl, e]
    exact (BitVec.add_eq_or_of_and_eq_zero _ _ hd).symm

/-- Shifting from 0 gives the number of the sampled bits, modulo 2^24 (42_accumulator.md R152). -/
theorem shifted_zero (d : Draws) (n base i k : Nat) : shifted d n base i 0#24 k = sampledRaw d n base i k := by
  induction k with
  | zero => rfl
  | succ k ih => rw [shifted, ih, sampledRaw, shiftIn_ofNat]; rfl

/-- The state after `k` data pulses that passed the guard, each with the sampling of every line. -/
def afterDataPulses (s : State) (k : Nat) : State :=
  { s with
    clk := if k = 0 then s.clk else .low
    env := s.env.skip (k * s.nlines) k
    trace := s.trace ++ dataGroups s.env s.nlines 0 k
    lines := s.lines.mapIdx fun i l => { l with acc := shifted s.env s.nlines 0 i l.acc k }
    bit := s.bit + k }

theorem mapIdx_self {α : Type} (ls : List α) : (ls.mapIdx fun _ l => l) = ls := by
  rw [mapIdx_const (fun l => l)]; simp

theorem afterDataPulses_zero (s : State) : afterDataPulses s 0 = s := by
  simp [afterDataPulses, dataGroups, shifted, mapIdx_self]

theorem afterDataPulses_succ (s : State) (k : Nat) (h : s.params.trips (s.env.time k) = false) :
    (afterDataPulses s k).pulse.1 = .ok ∧ (afterDataPulses s k).pulse.2.sampleLines = afterDataPulses s (k + 1) := by
  rw [State.pulse_eq, State.sampleLines_eq]
  simp [afterDataPulses, dataGroups, flatMap_range_succ, h, shifted, State.nlines, Nat.add_mul, Nat.add_assoc,
    Function.comp_def]

theorem dataLoop_passed (s : State) (k : Nat) : ∀ n, (∀ m < k, s.params.trips (s.env.time m) = false) →
    dataLoop (k + n) s = dataLoop n (afterDataPulses s k) := by
  induction k with
  | zero => intro n _; simp [afterDataPulses_zero]
  | succ k ih =>
    intro n h
    obtain ⟨h1, h2⟩ := afterDataPulses_succ s k (h k (Nat.lt_succ_self k))
    rw [Nat.succ_add_eq_add_succ, ih (n + 1) fun j hj => h j (Nat.lt_succ_of_lt hj), dataLoop, ← h2]
    rcases hp : (afterDataPulses s k).pulse with ⟨c, u⟩
    rw [hp] at h1
    subst h1
    rfl

/-- READ's data loop when every data pulse passes (40_sequencer.md R104). -/
theorem dataLoop_all (s : State) (n : Nat) (h : ∀ m < n, s.params.trips (s.env.time m) = false) :
    dataLoop n s = (.ok, afterDataPulses s n) := by
  simpa [dataLoop] using dataLoop_passed s n 0 h

/-- READ's data loop when data pulse number `k` is the first that fails (40_sequencer.md R104, R105 E2). -/
theorem dataLoop_slow (s : State) (k n : Nat) (hk : k < n) (ht : s.params.trips (s.env.time k) = true)
    (h : ∀ m < k, s.params.trips (s.env.time m) = false) :
    dataLoop n s = (.timingViolation,
      { afterDataPulses s k with
        clk := .low
        env := s.env.skip (k * s.nlines) (k + 1)
        trace := s.trace ++ dataGroups s.env s.nlines 0 k ++ pulseEvents (s.env.time k)
        diag := diagAfter s [.timingViolation (s.env.time k)] }) := by
  obtain ⟨m, rfl⟩ : ∃ m, n = k + (m + 1) := ⟨n - k - 1, by omega⟩
  rw [dataLoop_passed s k _ h, dataLoop, State.pulse_eq]
  simp [afterDataPulses, ht, diagAfter]

/-! ### READ's Finalizing -/

/-- The range test rejects nothing (43_decoder.md R171). -/
theorem rangeInvalid_eq_false (raw : Raw) : rangeInvalid raw = false := by
  simp only [rangeInvalid, decide_eq_false_iff_not]; omega

theorem decodeRaw_eq_int (raw : Raw) : ∃ v, decodeRaw raw = .int v := by
  simp only [decodeRaw, rangeInvalid_eq_false]
  split
  · contradiction
  · split <;> exact ⟨_, rfl⟩

/-- FINAL on a line whose history is not full (42_accumulator.md R153), everything it does. -/
theorem State.final_eq (s : State) (i : Nat) (l : Line) (hl : s.lines[i]? = some l)
    (hf : s.params.full l.rawHist.length = false) :
    s.final i =
      { s with
        lines := s.lines.modify i fun l => l.append l.acc (decodeRaw l.acc)
        diag := diagAfter s [.values i l.acc (decodeRaw l.acc)] } := by
  have hm : s.lines.modify i (fun m => m.append l.acc (decodeRaw l.acc)) =
      s.lines.modify i fun m => m.append m.acc (decodeRaw m.acc) := by
    apply List.ext_getElem?
    intro k
    simp only [List.getElem?_modify]
    by_cases hk : i = k
    · subst hk; simp [hl]
    · simp [hk]
  obtain ⟨v, hv⟩ := decodeRaw_eq_int l.acc
  simp only [State.final, hl, hf, Bool.false_eq_true, ↓reduceIte, hv, reduceCtorEq, State.emitDiag, State.setLine,
    diagAfter]
  rw [hv] at hm
  split <;> simp_all

/-- `acc[i]` of a list of lines, 0 where there is no line. -/
def accOf (ls : List Line) (i : Nat) : Raw := (ls[i]?.map Line.acc).getD 0

/-- FINAL on the first `n` lines, none full (40_sequencer.md R104). -/
theorem finalFold_eq (s : State) (hf : ∀ l ∈ s.lines, s.params.full l.rawHist.length = false) (n : Nat)
    (hn : n ≤ s.nlines) :
    (List.range n).foldl State.final s =
      { s with
        lines := (List.range n).foldl (fun ls i => ls.modify i fun l => l.append l.acc (decodeRaw l.acc)) s.lines
        diag := diagAfter s (finalRecords n (accOf s.lines)) } := by
  induction n with
  | zero => simp [finalRecords, diagAfter]
  | succ n ih =>
    rw [List.range_succ, List.foldl_concat, ih (by omega), List.foldl_concat]
    generalize hs : ({ s with
      lines := (List.range n).foldl (fun ls i => ls.modify i fun l => l.append l.acc (decodeRaw l.acc)) s.lines
      diag := diagAfter s (finalRecords n (accOf s.lines)) } : State) = u
    have hlt : n < s.lines.length := by simpa [State.nlines] using hn
    have hget : u.lines[n]? = some s.lines[n] := by
      rw [← hs]
      show ((List.range n).foldl _ s.lines)[n]? = _
      rw [foldl_modify (fun _ l => l.append l.acc (decodeRaw l.acc))]
      simp [hlt]
    have hfull : u.params.full s.lines[n].rawHist.length = false := by
      rw [← hs]; exact hf _ (List.getElem_mem hlt)
    rw [State.final_eq u n s.lines[n] hget hfull, ← hs]
    by_cases hd : s.dbg = true <;> simp [finalRecords, diagAfter, List.range_succ, accOf, hlt, hd]

/-- READ's Finalizing when no history is full (40_sequencer.md R104), everything it does. -/
theorem State.finalizeLines_eq (s : State) (hf : ∀ l ∈ s.lines, s.params.full l.rawHist.length = false) :
    s.finalizeLines =
      { s with
        phase := .finalizing
        lines := s.lines.map fun l => l.append l.acc (decodeRaw l.acc)
        diag := diagAfter s (finalRecords s.nlines (accOf s.lines)) } := by
  unfold State.finalizeLines State.eachLine
  rw [finalFold_eq (s.goto .finalizing) hf _ (Nat.le_refl _),
    foldl_modify (fun _ l => l.append l.acc (decodeRaw l.acc)), State.nlines,
    mapIdx_all (fun _ l => l.append l.acc (decodeRaw l.acc)), mapIdx_const]
  rfl

end Sys2Proof.Machine
end

