-- ==== Sys2Proof/Laws/Gates.lean ====
section
/-! SUPPORT. The tests before an operation (60_exceptions.md R197), the results in the terms of the statements, and which causes
a subroutine can give (60_exceptions.md R190). -/

namespace Sys2Proof.Machine

theorem State.busy_idle {s : State} (h : s.phase = .idle) : s.busy = false := by simp [State.busy, h]

theorem State.busy_not_idle {s : State} (h : s.phase ≠ .idle) : s.busy = true := by simp [State.busy, h]

/-! ### A step while an operation is in progress (60_exceptions.md R196) -/

/-- All that such a step can do: a turn, or one Busy answer, on the state with another port. -/
theorem State.progress_cases (s : State) :
    ∃ port, s.progress = advance { s with port := port } ∨ s.progress = onlyBusyAnswer { s with port := port } := by
  unfold State.progress
  split
  · exact ⟨s.port, .inl rfl⟩
  · split
    · exact ⟨s.port, .inl rfl⟩
    · exact ⟨_, .inr rfl⟩
    · exact ⟨_, .inl rfl⟩

theorem step_not_idle {s : State} (h : s.phase ≠ .idle) : step s = .next s.progress := by
  unfold step
  split
  · contradiction
  · rfl

/-! ### What the host can read (20_memory.md R56, 10_state.md R39) -/

theorem State.hostReadable_ready {s : State} (h : Ready s) : s.hostReadable = true := by
  simp [State.hostReadable, h.1, State.busy_idle h.2]

theorem State.hostReadable_notConstructed {s : State} (h : s.constructed = false) : s.hostReadable = false := by
  simp [State.hostReadable, h]

theorem State.hostReadable_busy {s : State} (h : s.phase ≠ .idle) : s.hostReadable = false := by
  simp [State.hostReadable, State.busy_not_idle h]

theorem State.complete_eq (s : State) (c : Cause) : s.complete c = onlyResult s c := rfl

theorem State.refuse_eq (s : State) (c : Cause) : s.refuse c = onlyResult s c := rfl

theorem State.answerBusy_eq (s : State) : s.answerBusy = onlyBusyAnswer s := rfl

theorem State.accept_busy {s : State} (h : s.phase ≠ .idle) (body : State → State) :
    s.accept body = onlyBusyAnswer s := by
  simp [State.accept, State.busy_not_idle h, State.answerBusy_eq]

theorem State.accept_notConstructed {s : State} (h : s.phase = .idle) (hc : s.constructed = false)
    (body : State → State) : s.accept body = onlyResult s .notConstructed := by
  simp [State.accept, State.busy_idle h, hc, State.refuse_eq]

theorem State.accept_ready {s : State} (h : Ready s) (body : State → State) : s.accept body = body s := by
  simp [State.accept, State.busy_idle h.2, h.1]

theorem State.acceptLine_ready {s : State} (h : Ready s) {i : Nat} (hi : i < s.nlines) (body : State → State) :
    s.acceptLine i body = body s := by
  simp [State.acceptLine, State.accept_ready h, hi]

theorem State.acceptLine_outOfRange {s : State} (h : Ready s) {i : Nat} (hi : s.nlines ≤ i) (body : State → State) :
    s.acceptLine i body = onlyResult s .illegalCommand := by
  simp [State.acceptLine, State.accept_ready h, Nat.not_lt.mpr hi, State.refuse_eq]

/-- The end of an operation as a record: what `State.endOperation` writes and leaves. -/
theorem State.endOperation_eq (s : State) (c : Cause) :
    s.endOperation c =
      { s with
        phase := .idle
        running := none
        poll := (Config.freePoll s.fresh).val
        bit := (Config.freeBit s.fresh).val
        tp := (Config.freeTp s.fresh).val
        fresh := s.fresh + 1
        ok := decide (c = .ok)
        cause := c
        answers := s.answers ++ [{ ok := decide (c = .ok), cause := c, res := s.res }] } := rfl

/-- No history is full, line by line. -/
theorem State.anyFull_false {s : State} (h : s.anyFull = false) :
    ∀ l ∈ s.lines, s.params.full l.rawHist.length = false := by
  simpa [State.anyFull] using h

/-! ### Causes -/

theorem prepareLoop_cause (n : Nat) (s : State) : (prepareLoop n s).1 = .ok ∨ (prepareLoop n s).1 = .notReady := by
  induction n generalizing s with
  | zero => exact .inr rfl
  | succ n ih =>
    simp only [prepareLoop]
    split
    · exact .inl rfl
    · exact ih _

theorem State.pulse_cause (s : State) : s.pulse.1 = .ok ∨ s.pulse.1 = .timingViolation := by
  rw [State.pulse_eq]; dsimp only; split <;> simp

theorem wrgainLoop_cause (n : Nat) (s : State) :
    (wrgainLoop n s).1 = .ok ∨ (wrgainLoop n s).1 = .timingViolation := by
  induction n generalizing s with
  | zero => exact .inl rfl
  | succ n ih =>
    have := s.pulse_cause
    simp only [wrgainLoop]
    split
    · exact ih _
    · simp_all

theorem dataLoop_cause (n : Nat) (s : State) : (dataLoop n s).1 = .ok ∨ (dataLoop n s).1 = .timingViolation := by
  induction n generalizing s with
  | zero => exact .inl rfl
  | succ n ih =>
    have := s.pulse_cause
    simp only [dataLoop]
    split
    · exact ih _
    · simp_all

theorem State.read_cause (s : State) : s.read.1 = .ok ∨ s.read.1 = .notReady ∨ s.read.1 = .timingViolation := by
  have h1 := prepareLoop_cause Config.pollMax s.startPolling
  unfold State.read State.prepare State.wrgain
  split
  · rename_i s2 _
    have h2 := dataLoop_cause Config.dataBits s2.startSampling
    split
    · have h3 := fun n u => wrgainLoop_cause n u
      exact (h3 _ _).elim .inl fun h => .inr (.inr h)
    · simp_all
  · simp_all

end Sys2Proof.Machine
end

