-- ==== Sys2Proof/Laws/PerInstr.lean ====
section
/-! SUPPORT. A statement about every instruction as syntax, one lemma per constructor: its word selects its own row of the
opcode map (30_encoding.md R72, R85). -/

namespace Sys2Proof.Laws.RowMatch

open Sys2Proof

/-- The encoding of the instruction, masked, is the match of its row (30_encoding.md R72). -/
def Statement (i : Instr) : Prop := i.row.selects (encode i) = true


/-- A word whose mask covers the opcode and the `zero` field only, whatever the operand. -/
theorem selects_wide (m : String) (o : BitVec 4) (x : BitVec 24) :
    OpRow.selects ⟨m, assemble o 0#24, 0xFF000000⟩ (assemble o x) = true := by
  simp only [OpRow.selects, assemble]
  apply decide_eq_true
  apply BitVec.eq_of_getLsbD_eq
  intro i hi
  have hmask : (0xFF000000#32).getLsbD i = decide (24 ≤ i) := by
    have : ∀ j : Fin 32, (0xFF000000#32).getLsbD j.val = decide (24 ≤ j.val) := by decide
    exact this ⟨i, hi⟩
  change ((o ++ 0#4 ++ x) &&& 0xFF000000#32).getLsbD i = _
  rw [BitVec.getLsbD_and, hmask]
  simp only [BitVec.getLsbD_append]
  by_cases h : i < 24
  · simp [h, Nat.not_le_of_lt h]
  · simp [h, Nat.le_of_not_lt h]

theorem construct (dbg : Bool) (ch : Channel) (gain : GainCode) : Statement (.construct dbg ch gain) := by
  cases dbg <;> cases ch <;> cases gain <;> rfl

theorem setcfg (ch : Channel) (gain : GainCode) : Statement (.setcfg ch gain) := by
  cases ch <;> cases gain <;> rfl

theorem prepare : Statement .prepare := rfl

theorem pulse : Statement .pulse := rfl

theorem wrgain : Statement .wrgain := rfl

theorem read : Statement .read := rfl

theorem resett (line : Nat) : Statement (.resett line) := selects_wide "RESETT" 0x8 (BitVec.ofNat 24 line)

theorem sample (line : Nat) : Statement (.sample line) := selects_wide "SAMPLE" 0x9 (BitVec.ofNat 24 line)

theorem final (line : Nat) : Statement (.final line) := selects_wide "FINAL" 0xA (BitVec.ofNat 24 line)

theorem decode (raw : Raw) : Statement (.decode raw) := selects_wide "DECODE" 0xB raw

end Sys2Proof.Laws.RowMatch
end

