-- ==== Sys2Proof/Laws/Read.lean ====
section
/-! SUPPORT. One specification lemma per exit of the subroutines PREPARE, WRGAIN and READ, each as one record over the state
before (40_sequencer.md R100, R104, R105, 41_chgain_encoder.md R134). -/

namespace Sys2Proof.Machine

/-! ### PREPARE -/

theorem State.prepare_ready (s : State) (q : Nat) (hq : q < 20)
    (hf : ∀ j < q, pollReady s.env s.nlines j = false) (hr : pollReady s.env s.nlines q = true) :
    s.prepare = (.ok,
      { s with
        clk := .low
        poll := q + 1
        env := s.env.skip ((q + 1) * s.nlines) 0
        trace := s.trace ++ readyTrace s.env s.nlines q }) := by
  unfold State.prepare
  rw [prepareLoop_ready s.startPolling q Config.pollMax hq hr hf, State.pollOnce_eq]
  simp [afterFailedPolls, State.startPolling, State.pinWrite, State.emit, readyTrace, Nat.add_mul, State.nlines]

theorem State.prepare_exhausted (s : State) (hf : ∀ j < 20, pollReady s.env s.nlines j = false) :
    s.prepare = (.notReady,
      { s with
        clk := .low
        poll := 20
        env := s.env.skip (20 * s.nlines) 0
        trace := s.trace ++ [.write .low] ++ failedPolls s.env s.nlines 20 }) := by
  unfold State.prepare
  rw [prepareLoop_exhausted s.startPolling Config.pollMax hf]
  simp [afterFailedPolls, State.startPolling, State.pinWrite, State.emit, State.nlines, Config.pollMax]

/-! ### WRGAIN -/

theorem Cfg.pulses_pos (c : Cfg) : 0 < c.pulses := by cases c <;> decide

theorem State.wrgain_all (s : State) (h : ∀ m < s.cfg.pulses, s.params.trips (s.env.time m) = false) :
    s.wrgain = (.ok,
      { s with
        clk := .low
        tp := s.cfg.pulses
        env := s.env.skip 0 s.cfg.pulses
        trace := s.trace ++ barePulses s.env 0 s.cfg.pulses }) := by
  unfold State.wrgain
  rw [wrgainLoop_all { s with tp := 0 } _ h]
  simp [afterBarePulses, Nat.ne_of_gt s.cfg.pulses_pos]

theorem State.wrgain_slow (s : State) (k : Nat) (hk : k < s.cfg.pulses) (ht : s.params.trips (s.env.time k) = true)
    (h : ∀ m < k, s.params.trips (s.env.time m) = false) :
    s.wrgain = (.timingViolation,
      { s with
        clk := .low
        tp := k
        env := s.env.skip 0 (k + 1)
        trace := s.trace ++ barePulses s.env 0 (k + 1)
        diag := diagAfter s [.timingViolation (s.env.time k)] }) := by
  unfold State.wrgain
  rw [wrgainLoop_slow { s with tp := 0 } k _ hk ht h]
  simp [diagAfter]

/-! ### Draws and events that start further on -/

theorem dataGroups_skip (d : Draws) (a n base k : Nat) :
    dataGroups (d.skip a 0) n base k = dataGroups d n (a + base) k := by
  simp [dataGroups, Nat.add_assoc]

theorem sampledRaw_skip (d : Draws) (a n base i k : Nat) :
    sampledRaw (d.skip a 0) n base i k = sampledRaw d n (a + base) i k := by
  have h : ∀ k, sampledBits (d.skip a 0) n base i k = sampledBits d n (a + base) i k := by
    intro k
    induction k with
    | zero => rfl
    | succ k ih => simp [sampledBits, ih, Nat.add_assoc]
  simp [sampledRaw, h]

theorem barePulses_skip (d : Draws) (a b t k : Nat) : barePulses (d.skip a b) t k = barePulses d (b + t) k := by
  simp [barePulses, Nat.add_assoc]

/-! ### READ -/

theorem State.read_notReady (s : State) (hf : ∀ j < 20, pollReady s.env s.nlines j = false) :
    s.read = (.notReady, s.prepare.2) := by
  unfold State.read
  rw [s.prepare_exhausted hf]

/-- The lines of a READ after `k` samples per line: the accumulators hold the bits drawn from `base` on. -/
def sampledLines (s : State) (base k : Nat) : List Line :=
  s.lines.mapIdx fun i l => { l with acc := sampledRaw s.env s.nlines base i k }

/-- The lines after `k` samples per line from cleared accumulators. -/
theorem shifted_lines (d : Draws) (a n k : Nat) (ls : List Line) :
    ((ls.map fun l => { l with acc := 0#24 }).mapIdx fun i l =>
        { l with acc := shifted (d.skip a 0) n 0 i l.acc k }) =
      ls.mapIdx fun i l => { l with acc := sampledRaw d n a i k } := by
  apply List.ext_getElem?
  intro i
  simp [List.getElem?_mapIdx, Function.comp_def, shifted_zero, sampledRaw_skip]

/-- READ ends at data pulse number `k + 1` (40_sequencer.md R105, exit E2). -/
theorem State.read_slowData (s : State) (q k : Nat) (hq : q < 20)
    (hf : ∀ j < q, pollReady s.env s.nlines j = false) (hr : pollReady s.env s.nlines q = true)
    (hk : k < 24) (hp : ∀ m < k, s.params.trips (s.env.time m) = false) (ht : s.params.trips (s.env.time k) = true) :
    s.read = (.timingViolation,
      { s with
        clk := .low
        phase := .sampling
        poll := q + 1
        bit := k
        lines := sampledLines s ((q + 1) * s.nlines) k
        env := s.env.skip ((q + 1 + k) * s.nlines) (k + 1)
        trace := s.trace ++ readyTrace s.env s.nlines q ++ dataGroups s.env s.nlines ((q + 1) * s.nlines) k ++
          pulseEvents (s.env.time k)
        diag := diagAfter s [.timingViolation (s.env.time k)] }) := by
  unfold State.read
  rw [s.prepare_ready q hq hf hr]
  simp only
  rw [State.startSampling_eq, dataLoop_slow _ k Config.dataBits hk (by simpa using ht) (by simpa using hp)]
  simp [afterDataPulses, sampledLines, State.nlines, diagAfter, dataGroups_skip, shifted_lines, Nat.add_mul]

/-- The state in which READ begins its trailing pulses: one entry per history more. -/
def afterFinalizing (s : State) (q : Nat) : State :=
  { s with
    clk := .low
    phase := .settingGain
    poll := q + 1
    bit := 24
    lines := (sampledLines s ((q + 1) * s.nlines) 24).map fun l => l.append l.acc (decodeRaw l.acc)
    env := s.env.skip ((q + 1 + 24) * s.nlines) 24
    trace := s.trace ++ readyTrace s.env s.nlines q ++ dataGroups s.env s.nlines ((q + 1) * s.nlines) 24
    diag := diagAfter s (finalRecords s.nlines fun i => sampledRaw s.env s.nlines ((q + 1) * s.nlines) i 24) }

theorem finalRecords_congr (n : Nat) (f g : Nat → Raw) (h : ∀ i < n, f i = g i) : finalRecords n f = finalRecords n g := by
  unfold finalRecords
  apply List.map_congr_left
  intro i hi
  rw [h i (List.mem_range.mp hi)]

/-- A READ whose 24 data pulses all pass comes to its trailing pulses (40_sequencer.md R104). -/
theorem State.read_sampled (s : State) (q : Nat) (hn : s.anyFull = false) (hq : q < 20)
    (hf : ∀ j < q, pollReady s.env s.nlines j = false) (hr : pollReady s.env s.nlines q = true)
    (hp : ∀ m < 24, s.params.trips (s.env.time m) = false) :
    s.read = (afterFinalizing s q).wrgain := by
  unfold State.read
  rw [s.prepare_ready q hq hf hr]
  simp only
  rw [State.startSampling_eq, dataLoop_all _ _ (by simpa [Config.dataBits] using hp)]
  simp only
  generalize hu : afterDataPulses _ Config.dataBits = u
  have hl : u.lines = sampledLines s ((q + 1) * s.nlines) 24 := by
    rw [← hu]
    simp [afterDataPulses, sampledLines, shifted_lines, State.nlines, Config.dataBits]
  have hfull : ∀ l ∈ u.lines, u.params.full l.rawHist.length = false := by
    intro l hlm
    have hpar : u.params = s.params := by rw [← hu]; rfl
    rw [hl, sampledLines] at hlm
    obtain ⟨i, hi, rfl⟩ := List.mem_mapIdx.mp hlm
    rw [hpar]
    exact State.anyFull_false hn s.lines[i] (List.getElem_mem hi)
  have hrec : finalRecords u.nlines (accOf u.lines) =
      finalRecords s.nlines fun i => sampledRaw s.env s.nlines ((q + 1) * s.nlines) i 24 := by
    have hlen : u.nlines = s.nlines := by simp [State.nlines, hl, sampledLines]
    rw [hlen]
    apply finalRecords_congr
    intro i hi
    have hi' : i < s.lines.length := hi
    simp [accOf, hl, sampledLines, hi']
  rw [State.finalizeLines_eq u hfull, hrec]
  congr 1
  rw [hl, ← hu]
  simp [afterFinalizing, afterDataPulses, State.goto, dataGroups_skip, State.nlines, Nat.add_mul, Config.dataBits,
    diagAfter]

end Sys2Proof.Machine
end

