-- ==== Sys2Proof/Tests/Slice0.lean ====
section
/-! SUPPORT. Tests whose expected values are the spec's (95_test_vectors.md and the examples of the rules), and, for every
statement with hypotheses, a theorem `meets_<Statement>` that a concrete state and operands meet them all. -/

namespace Sys2Proof.Tests

open Sys2Proof Sys2Proof.Machine

/-! ### Helpers -/

/-- The 24 levels of a raw value, most significant first (95_test_vectors.md, `bits(v)`). -/
def bits (v : Nat) : List Level := (List.range 24).map fun j => if v.testBit (23 - j) then .high else .low

/-- A constructed block of `n` lines in Idle, with scripted draws. -/
def block (n : Nat) (levels : List Level) (times : List Nat) : State :=
  { State.powerOn Params.default n with
    constructed := true
    env := { levels := levels, times := times, levelCount := 0, timeCount := 0 } }

/-- A line with this accumulator and these raw values recorded. -/
def lineOf (acc : Raw) (raws : List Raw) : Line :=
  { Line.powerOn with acc := acc, rawHist := raws, signedHist := raws.map decodeRaw }

/-- A constructed block of two lines: the first as `lineOf 0 []`, the second given; capacity `depth`. -/
def store (l : Line) (depth : Option Nat) : State :=
  { block 2 [] [] with lines := [lineOf 0 [], l], params := { Params.default with hdepth := depth } }

/-- The instruction gives a next state of which `p` holds. -/
def ran (i : Instr) (s : State) (p : State → Bool) : Bool :=
  match exec i s with
  | .next t => p t
  | .fault _ => false
  | .refused _ => false

/-- The step gives a next state of which `p` holds. -/
def stepped (s : State) (p : State → Bool) : Bool :=
  match step s with
  | .next t => p t
  | .fault _ => false
  | .refused _ => false

/-- `n` elapsed times of 1000 ns. -/
def quick (n : Nat) : List Nat := List.replicate n 1000

/-! ### WellFormed refuses what has no encoding (30_encoding.md R71, R74) -/

theorem test_wellFormed_resett : (Instr.resett (2 ^ 24)).wellFormed = false := by decide
theorem test_wellFormed_sample : (Instr.sample (2 ^ 24)).wellFormed = false := by decide
theorem test_wellFormed_final : (Instr.final (2 ^ 24)).wellFormed = false := by decide

/-! ### Decoding, words written out from 30_encoding.md R72 to R76 -/

theorem test_decode_construct :
    decode 0b0001_0000_00000000_00000000_0000_1001#32 = .legal (.construct true .a .g64) := by decide
theorem test_decode_setcfg :
    decode 0b0010_0000_00000000_00000000_00000_110#32 = .legal (.setcfg .b .g32) := by decide
theorem test_decode_prepare : decode 0b0011_0000_00000000_00000000_00000000#32 = .legal .prepare := by decide
theorem test_decode_pulse : decode 0b0100_0000_00000000_00000000_00000000#32 = .legal .pulse := by decide
theorem test_decode_wrgain : decode 0b0101_0000_00000000_00000000_00000000#32 = .legal .wrgain := by decide
theorem test_decode_read : decode 0b0110_0000_00000000_00000000_00000000#32 = .legal .read := by decide
theorem test_decode_resett :
    decode 0b1000_0000_11111111_11111111_11111111#32 = .legal (.resett 16777215) := by decide
theorem test_decode_sample :
    decode 0b1001_0000_00000000_00000000_00000010#32 = .legal (.sample 2) := by decide
theorem test_decode_final :
    decode 0b1010_0000_00000001_00000000_00000000#32 = .legal (.final 65536) := by decide
theorem test_decode_decode :
    decode 0b1011_0000_10000000_00000000_00000001#32 = .legal (.decode 0x800001#24) := by decide

/-- One word for each case of 30_encoding.md R78 (b) (V-REF-3 to V-REF-7, P8 words 8, 9, 14). -/
theorem test_illegal_words :
    decode 0x00000000#32 = .illegal .reservedOpcode ∧ decode 0x70000000#32 = .illegal .reservedOpcode ∧
    decode 0xC0000000#32 = .illegal .reservedOpcode ∧ decode 0xD0000000#32 = .illegal .reservedOpcode ∧
    decode 0xE0000000#32 = .illegal .reservedOpcode ∧ decode 0xF0000000#32 = .illegal .reservedOpcode ∧
    decode 0x61000000#32 = .illegal .zeroField ∧ decode 0x30000001#32 = .illegal .operandNotZero ∧
    decode 0x10000010#32 = .illegal .constructReserved ∧ decode 0x20000008#32 = .illegal .setcfgReserved := by decide

theorem test_decodeTableWord :
    decodeTableWord 32 0xB0ABCDEF = some (.decode 0xABCDEF#24) ∧ decodeTableWord 32 0x70000000 = none := by decide

/-! ### One step of each instruction -/

/-- 41_chgain_encoder.md R132, example. -/
theorem test_construct : ran (.construct false .b .g32) State.reset (fun t =>
    decide (t.trace = [.dir .clk .output, .dir (.data 0) .input, .dir (.data 1) .input]) && decide (t.cfg = .b32) &&
      t.ok && t.constructed) = true := by decide +kernel

/-- V-REF-9: B with 128. -/
theorem test_construct_refused : ran (.construct false .b .g128) State.reset (fun t =>
    decide (t.trace = []) && decide (t.cause = .configError) && !t.ok && !t.constructed) = true := by decide +kernel

/-- 41_chgain_encoder.md R133, example. -/
theorem test_setcfg : ran (.setcfg .a .g64) (block 1 [] []) (fun t =>
    decide (t.cfg = .a64) && decide (t.trace = []) && t.ok) = true := by decide +kernel

/-- 40_sequencer.md R100, example. -/
theorem test_prepare : ran .prepare (block 2 [.high, .low, .low, .low] []) (fun t =>
    decide (t.trace = [.write .low, .read 0 .high, .read 1 .low, .wait, .read 0 .low, .read 1 .low]) && t.ok) = true := by
  decide +kernel

/-- 40_sequencer.md R100, corner case (b), and P3. -/
theorem test_prepare_notReady : ran .prepare (block 2 (List.replicate 20 [.low, .high]).flatten []) (fun t =>
    decide (t.trace.length = 1 + 20 * 3) && decide (t.cause = .notReady) && !t.ok) = true := by decide +kernel

/-- 40_sequencer.md R101, examples. -/
theorem test_pulse : ran .pulse (block 1 [] [2000]) (fun t =>
    decide (t.trace = [.write .high, .write .low, .elapsed 2000]) && t.ok) = true := by decide +kernel

theorem test_pulse_slow : ran .pulse (block 1 [] [75000]) (fun t =>
    decide (t.trace = [.write .high, .write .low, .elapsed 75000]) && decide (t.cause = .timingViolation)) = true := by
  decide +kernel

/-- 41_chgain_encoder.md R134, examples. -/
theorem test_wrgain : ran .wrgain { block 1 [] (quick 3) with cfg := .a64 } (fun t =>
    decide (pulseCount t.trace = 3) && decide (t.trace.length = 9) && t.ok) = true := by decide +kernel

theorem test_wrgain_slow : ran .wrgain { block 1 [] [1000, 60000, 1000] with cfg := .a64 } (fun t =>
    decide (pulseCount t.trace = 2) && decide (t.cause = .timingViolation)) = true := by decide +kernel

/-- V-READ-E4. -/
theorem test_read : ran .read (block 1 (.low :: bits 0xABCDEF) (quick 25)) (fun t =>
    decide (t.trace.length = 101) && decide (pulseCount t.trace = 25) && decide (t.accAt 0 = some 0xABCDEF#24) &&
      decide (t.rawAt 0 0 = some 0xABCDEF#24) && decide (t.signedAt 0 0 = some (.int (-5517841))) && t.ok) = true := by
  decide +kernel

/-- P6, exit E3 with two of three trailing pulses. -/
theorem test_read_trailing :
    ran .read { block 1 (.low :: bits 0x00FF00) (quick 25 ++ [60000]) with cfg := .a64 } (fun t =>
      decide (pulseCount t.trace = 26) && decide (t.rawAt 0 0 = some 0x00FF00#24) &&
        decide (t.signedAt 0 0 = some (.int 65280)) && decide (t.cause = .timingViolation)) = true := by
  decide +kernel

/-- 42_accumulator.md R151, example. -/
theorem test_resett : ran (.resett 1) (store (lineOf 0xABCDEF [5]) none) (fun t =>
    decide (t.accAt 1 = some 0#24) && decide (t.rawAt 1 0 = some 5#24) && t.ok) = true := by decide +kernel

/-- 42_accumulator.md R152, example and V-SMP-9. -/
theorem test_sample : ran (.sample 1) { store (lineOf 0xABCDEF []) none with env := (block 1 [.high] []).env } (fun t =>
    decide (t.accAt 1 = some 0x579BDF#24) && decide (t.accAt 0 = some 0#24) &&
      decide (t.trace = [.read 1 .high])) = true := by decide +kernel

/-- 42_accumulator.md R153, example. -/
theorem test_final : ran (.final 1) (store (lineOf 0x800000 [1, 2, 3]) none) (fun t =>
    decide (t.rawAt 1 3 = some 0x800000#24) && decide (t.signedAt 1 3 = some (.int (-8388608))) &&
      decide (t.accAt 1 = some 0x800000#24) && decide (t.hostLength 1 = some (4, 4))) = true := by decide +kernel

/-- 95_test_vectors.md section 2.5: FINAL with `HDEPTH = 2` and two entries. -/
theorem test_final_full : ran (.final 1) (store (lineOf 7 [1, 2]) (some 2)) (fun t =>
    decide (t.cause = .historyOverflow) && decide (t.hostLength 1 = some (2, 2))) = true := by decide +kernel

/-- 95_test_vectors.md section 2.6. -/
theorem test_decode : ran (.decode 0xABCDEF#24) (block 1 [] []) (fun t =>
    decide (t.resultWord = 0x81ABCDEF#32)) = true ∧ decodeRaw 0xABCDEF#24 = .int (-5517841) := by decide +kernel

theorem test_decode_corners : decodeRaw 0x7FFFFF#24 = .int 8388607 ∧ decodeRaw 0x800000#24 = .int (-8388608) ∧
    decodeRaw 0xFFFFFF#24 = .int (-1) ∧ decodeRaw 0#24 = .int 0 := by decide +kernel

/-! ### The port -/

/-- A READ at its start, with two words presented at once (V-REF-10). -/
def reading : State :=
  { block 1 (.low :: bits 0xABCDEF) (quick 25) with
    phase := .preparing
    running := some .read
    trace := [.write .low]
    port := [{ word := 0x60000000, arrival := .afterTurns 0 }, { word := 0x00000000, arrival := .afterTurns 0 }] }

/-- V-REF-10: the word is answered Busy, and the READ stands where it stood. -/
theorem test_busy : stepped reading (fun t =>
    decide (t.answers.map Answer.cause = [.busy]) && decide (t.phase = .preparing) && decide (t.env = reading.env) &&
      decide (t.cause = .ok)) = true := by decide +kernel

/-- A PULSE in progress whose next word comes one turn later: the PULSE ends, and the word finds the block in Idle. -/
def pulsing : State :=
  { block 1 [] [1000] with
    phase := .pulsing
    running := some .pulse
    port := [{ word := 0x60000000, arrival := .afterTurns 1 }] }

/-- 60_exceptions.md R196: with no word due the operation goes on and gives its own answer. -/
theorem test_not_due : stepped pulsing (fun t =>
    decide (t.answers.map Answer.cause = [.ok]) && decide (t.phase = .idle) &&
      decide (t.port = [{ word := 0x60000000, arrival := .afterTurns 0 }])) = true := by decide +kernel

/-- V-REF-8: an illegal word before construction is IllegalCommand, not NotConstructed. -/
theorem test_illegal_before_construct : stepped (State.reset.withFetchWord 32 0x70000000) (fun t =>
    decide (t.cause = .illegalCommand) && decide (t.port = [])) = true := by decide +kernel

theorem test_withFetchWord : stepped (State.reset.withFetchWord 32 0x10000009) (fun t =>
    decide (t.cfg = .a64) && t.dbg && t.constructed && decide (t.running = none)) = true := by decide +kernel

/-! ### Witnesses: every hypothesis of every statement is met -/

/-- A slow pulse after `n` good ones. -/
def slowAfter (n : Nat) : List Nat := List.replicate n 59999 ++ [60000]

/-- A block of one line that becomes ready at poll number `q` and then draws the given times. -/
def readyAt (q : Nat) (cfg : Cfg) (times : List Nat) : State :=
  { block 1 (List.replicate q .high ++ .low :: bits 0xABCDEF) times with cfg := cfg }

theorem meets_EncodeDecodeRoundTrip : (Instr.sample 16777215).wellFormed = true := by decide

theorem meets_LegalWordIsItsEncoding : decode 0x90FFFFFF#32 = .legal (.sample 16777215) := by decide

theorem meets_EncodingIsMatchOrOperands : 16777215 < 2 ^ 24 := by decide

theorem meets_WordSelectsAtMostOneRow :
    decode 0xA0FFFFFF#32 = .legal (.final 16777215) ∧ decode 0x30000001#32 = .illegal .operandNotZero := by decide

theorem meets_StepRunsTheDecodedInstruction :
    State.reset.phase = .idle ∧ State.reset.port = [] ∧
    (State.reset.withFetchWord 32 0x60000000).port = [{ word := 0x60000000, arrival := .whenIdle }] ∧
    decode 0x60000000#32 = .legal .read ∧
    ({ State.reset with port := [] } : State).nextIsEarly = false ∧
    ({ State.reset with port := [{ word := 0, arrival := .afterTurns 3 }] } : State).nextIsEarly = true := by decide +kernel

theorem meets_StepInProgressAdvances :
    reading.phase ≠ .idle ∧ ({ reading with port := [] } : State).nextIsEarly = false ∧
    reading.port = { word := 0x60000000, arrival := .afterTurns 0 } ::
      [{ word := 0x00000000, arrival := .afterTurns 0 }] ∧
    pulsing.phase ≠ .idle ∧ pulsing.port = { word := 0x60000000, arrival := .afterTurns (0 + 1) } :: [] := by
  decide +kernel

theorem meets_IllegalWordOnlySetsTheResult :
    (State.reset.withFetchWord 32 0x61000000).phase = .idle ∧
    (State.reset.withFetchWord 32 0x61000000).port = { word := 0x61000000, arrival := .whenIdle } :: [] ∧
    decode 0x61000000#32 = .illegal .zeroField := by decide +kernel

theorem meets_BusyCommandIsNotExecuted : reading.phase ≠ .idle := by decide

theorem meets_BusyWordDisturbsNothing : pulsing.phase ≠ .idle := by decide

theorem meets_NotConstructedRefusesAllButConstruct :
    State.reset.phase = .idle ∧ State.reset.constructed = false ∧
    (∀ dbg ch gain, Instr.decode 0xFFFFFF#24 ≠ .construct dbg ch gain) ∧ cfgOf .a .code3 = none :=
  ⟨rfl, rfl, fun _ _ _ => by simp, rfl⟩

theorem meets_LineOutOfRangeIsRefused : Ready (block 2 [] []) ∧ (block 2 [] []).nlines ≤ 2 := ⟨⟨rfl, rfl⟩, by decide⟩

/-- Each refusal of the order is met, and none. -/
theorem meets_RefusalsInTheOrderOfTheSpec :
    State.reset.phase = .idle ∧
    firstRefusal State.reset .read = some .notConstructed ∧
    firstRefusal (block 2 [] []) (.sample 2) = some .illegalCommand ∧
    firstRefusal State.reset (.construct true .b .g64) = some .configError ∧
    firstRefusal (store (lineOf 0 [1, 2]) (some 2)) (.final 1) = some .historyOverflow ∧
    firstRefusal (store (lineOf 0 [1, 2]) (some 2)) .read = some .historyOverflow ∧
    firstRefusal (store (lineOf 0 [1, 2]) (some 3)) .read = none ∧
    firstRefusal (block 2 [] []) (.sample 1) = none := by decide +kernel

theorem meets_EveryInstructionIsAnsweredOnce :
    (∃ t, exec .pulse (block 1 [] [60000]) = .next t) ∧ (block 1 [] [60000]).phase = .idle ∧
    (∃ t, exec .pulse reading = .next t) ∧ reading.phase ≠ .idle :=
  ⟨⟨_, rfl⟩, rfl, ⟨_, rfl⟩, by decide⟩

theorem meets_ConstructMakesAController :
    State.reset.phase = .idle ∧ cfgOf .a .g128 = some .a128 ∧ cfgOf .a .g64 = some .a64 ∧ cfgOf .b .g32 = some .b32 := by
  decide

theorem meets_ConstructRefusesOtherPairs :
    reading.phase ≠ .idle ∧ State.reset.phase = .idle ∧
    (Channel.b, GainCode.code3) ∈ [(Channel.a, GainCode.g32), (.a, .code3), (.b, .g128), (.b, .g64), (.b, .code3)] := by
  decide

theorem meets_ValidPairsAreThree : cfgOf .b .g32 = some .b32 := by decide

theorem meets_TrailingPulseCounts : Cfg.bits .a128 = 0b000#3 ∧ Cfg.bits .b32 = 0b110#3 ∧ Cfg.bits .a64 = 0b001#3 := by
  decide

theorem meets_StoredConfigIsTheOperand : cfgOf .a .g64 = some .a64 := by decide

theorem meets_SetcfgWritesOnlyTheConfig :
    State.reset.phase = .idle ∧ State.reset.constructed = false ∧ (block 1 [] []).phase = .idle ∧
    (block 1 [] []).constructed = true ∧ cfgOf .b .g64 = none ∧ cfgOf .b .g32 = some .b32 := by decide

theorem meets_WrgainEmitsAllItsPulses :
    Ready (readyAt 0 .a64 (slowAfter 3)) ∧
    ∀ m < (readyAt 0 .a64 (slowAfter 3)).cfg.pulses,
      (readyAt 0 .a64 (slowAfter 3)).params.trips ((readyAt 0 .a64 (slowAfter 3)).env.time m) = false :=
  ⟨⟨rfl, rfl⟩, by decide +kernel⟩

/-- The third trailing pulse is the slow one. -/
theorem meets_WrgainStopsAtTheFirstSlowPulse :
    Ready (readyAt 0 .a64 (slowAfter 2)) ∧ 2 < (readyAt 0 .a64 (slowAfter 2)).cfg.pulses ∧
    (∀ m < 2, (readyAt 0 .a64 (slowAfter 2)).params.trips ((readyAt 0 .a64 (slowAfter 2)).env.time m) = false) ∧
    (readyAt 0 .a64 (slowAfter 2)).params.trips ((readyAt 0 .a64 (slowAfter 2)).env.time 2) = true :=
  ⟨⟨rfl, rfl⟩, by decide +kernel⟩

/-- Both sides of the boundary (40_sequencer.md R101, corner case (a)). -/
theorem meets_PulseWritesHighThenLow :
    Ready (block 1 [] [59999]) ∧ (block 1 [] [59999]).params.trips 59999 = false ∧
    Ready (block 1 [] [60000]) ∧ (block 1 [] [60000]).params.trips 60000 = true :=
  ⟨⟨rfl, rfl⟩, by decide +kernel, ⟨rfl, rfl⟩, by decide +kernel⟩

/-- The first poll and the last. -/
theorem meets_PrepareSucceedsAtTheFirstReadyPoll :
    Ready (readyAt 0 .a64 []) ∧ pollReady (readyAt 0 .a64 []).env 1 0 = true ∧
    Ready (readyAt 19 .a64 []) ∧ (19 : Nat) < 20 ∧
    (∀ j < 19, pollReady (readyAt 19 .a64 []).env (readyAt 19 .a64 []).nlines j = false) ∧
    pollReady (readyAt 19 .a64 []).env (readyAt 19 .a64 []).nlines 19 = true :=
  ⟨⟨rfl, rfl⟩, by decide +kernel, ⟨rfl, rfl⟩, by decide +kernel⟩

theorem meets_PrepareFailsAfterTwentyPolls :
    Ready (readyAt 20 .a64 []) ∧
    ∀ j < 20, pollReady (readyAt 20 .a64 []).env (readyAt 20 .a64 []).nlines j = false :=
  ⟨⟨rfl, rfl⟩, by decide +kernel⟩

theorem meets_ReadRefusesAFullHistory :
    Ready (store (lineOf 7 [1, 2]) (some 2)) ∧ (store (lineOf 7 [1, 2]) (some 2)).params.hdepth = some 2 ∧
    lineOf 7 [1, 2] ∈ (store (lineOf 7 [1, 2]) (some 2)).lines ∧ (lineOf 7 [1, 2]).rawHist.length = 2 :=
  ⟨⟨rfl, rfl⟩, by decide +kernel⟩

theorem meets_ReadEndsWhenNeverReady :
    Ready (readyAt 20 .a64 []) ∧ (readyAt 20 .a64 []).anyFull = false ∧
    ∀ j < 20, pollReady (readyAt 20 .a64 []).env (readyAt 20 .a64 []).nlines j = false :=
  ⟨⟨rfl, rfl⟩, by decide +kernel⟩

/-- The last poll and the last data pulse. -/
theorem meets_ReadAbandonsTheCycleAtASlowDataPulse :
    Ready (readyAt 19 .a64 (slowAfter 23)) ∧ (readyAt 19 .a64 (slowAfter 23)).anyFull = false ∧
    (∀ j < 19, pollReady (readyAt 19 .a64 (slowAfter 23)).env (readyAt 19 .a64 (slowAfter 23)).nlines j = false) ∧
    pollReady (readyAt 19 .a64 (slowAfter 23)).env (readyAt 19 .a64 (slowAfter 23)).nlines 19 = true ∧
    (∀ m < 23, (readyAt 19 .a64 (slowAfter 23)).params.trips
      ((readyAt 19 .a64 (slowAfter 23)).env.time m) = false) ∧
    (readyAt 19 .a64 (slowAfter 23)).params.trips ((readyAt 19 .a64 (slowAfter 23)).env.time 23) = true :=
  ⟨⟨rfl, rfl⟩, by decide +kernel⟩

/-- The last trailing pulse. -/
theorem meets_ReadKeepsTheEntriesWhenATrailingPulseIsSlow :
    Ready (readyAt 0 .a64 (slowAfter 26)) ∧ (readyAt 0 .a64 (slowAfter 26)).anyFull = false ∧
    pollReady (readyAt 0 .a64 (slowAfter 26)).env (readyAt 0 .a64 (slowAfter 26)).nlines 0 = true ∧
    2 < (readyAt 0 .a64 (slowAfter 26)).cfg.pulses ∧
    (∀ m < 24 + 2, (readyAt 0 .a64 (slowAfter 26)).params.trips
      ((readyAt 0 .a64 (slowAfter 26)).env.time m) = false) ∧
    (readyAt 0 .a64 (slowAfter 26)).params.trips ((readyAt 0 .a64 (slowAfter 26)).env.time (24 + 2)) = true :=
  ⟨⟨rfl, rfl⟩, by decide +kernel⟩

theorem meets_ReadAppendsOneSamplePerLine :
    Ready (readyAt 19 .b32 (slowAfter 26)) ∧ (readyAt 19 .b32 (slowAfter 26)).anyFull = false ∧
    (∀ p < 19, pollReady (readyAt 19 .b32 (slowAfter 26)).env (readyAt 19 .b32 (slowAfter 26)).nlines p = false) ∧
    pollReady (readyAt 19 .b32 (slowAfter 26)).env (readyAt 19 .b32 (slowAfter 26)).nlines 19 = true ∧
    (∀ m < 24 + (readyAt 19 .b32 (slowAfter 26)).cfg.pulses, (readyAt 19 .b32 (slowAfter 26)).params.trips
      ((readyAt 19 .b32 (slowAfter 26)).env.time m) = false) :=
  ⟨⟨rfl, rfl⟩, by decide +kernel⟩

/-- Each outcome of READ, the full count with `ok = 0` among them (40_sequencer.md R106). -/
theorem meets_ReadPulseCounts :
    Ready (readyAt 0 .a64 (slowAfter 26)) ∧
    ran .read (readyAt 0 .a64 (slowAfter 27)) (fun t => t.ok && decide (pulseCount t.trace = 27)) = true ∧
    ran .read (readyAt 20 .a64 []) (fun t => decide (t.cause = .notReady) && decide (pulseCount t.trace = 0)) = true ∧
    ran .read (readyAt 0 .a64 (slowAfter 26)) (fun t =>
      decide (t.cause = .timingViolation) && decide (pulseCount t.trace = 27)) = true ∧
    ran .read (readyAt 0 .a64 (slowAfter 0)) (fun t =>
      decide (t.cause = .timingViolation) && decide (pulseCount t.trace = 1)) = true :=
  ⟨⟨rfl, rfl⟩, by decide +kernel⟩

theorem meets_HistoriesGrowTogether :
    (∀ line, Instr.read ≠ .final line) ∧ EqualLengths (store (lineOf 7 []) none) ∧
    ∃ t, exec .read (store (lineOf 7 []) none) = .next t := by
  refine ⟨fun _ => by simp, ?_, ⟨_, rfl⟩⟩
  intro l hl m hm
  simp [store, lineOf] at hl hm
  rcases hl with rfl | rfl <;> rcases hm with rfl | rfl <;> rfl

theorem meets_ReadXIsRead : Ready (readyAt 19 .b32 (slowAfter 26)) ∧ (readyAt 19 .b32 (slowAfter 26)).anyFull = false :=
  ⟨⟨rfl, rfl⟩, by decide +kernel⟩

theorem meets_TurnsMakeUpTheWholeInstruction : (readyAt 19 .a64 (slowAfter 27)).phase = .idle := by decide

theorem meets_EveryOperationEnds : ∃ t, exec .read (readyAt 20 .a64 []) = .next t := ⟨_, rfl⟩

/-- A state inside each phase, at the last turn of its counter. -/
theorem meets_PhaseMovesAsTheTable :
    (reading.phase = .preparing ∧ ({ reading with poll := 19 } : State).poll < 20) ∧
    (({ reading with phase := .sampling, bit := 23 } : State).bit < 24 ∧
      reading.params.trips (reading.env.time 0) = false) ∧
    (({ reading with phase := .sampling, bit := 22 } : State).bit < 23) ∧
    (readyAt 0 .a64 (slowAfter 0)).params.trips ((readyAt 0 .a64 (slowAfter 0)).env.time 0) = true ∧
    ({ reading with phase := .finalizing, bit := 24 } : State).phase = .finalizing ∧
    (({ reading with phase := .settingGain, cfg := .a64, tp := 2 } : State).tp < Cfg.pulses .a64) ∧
    ({ reading with phase := .pulsing } : State).phase = .pulsing ∧
    Ready (readyAt 0 .a64 []) ∧ (readyAt 0 .a64 []).anyFull = false :=
  ⟨by decide, by decide +kernel, by decide, by decide +kernel, rfl, by decide, rfl, ⟨rfl, rfl⟩, by decide +kernel⟩

theorem meets_ResettZeroesOneAccumulator :
    16777215 < 2 ^ 24 ∧ State.reset.phase = .idle ∧ State.reset.constructed = false ∧
    Ready (store (lineOf 7 [1]) none) ∧ (store (lineOf 7 [1]) none).nlines ≤ 2 ∧
    (store (lineOf 7 [1]) none).lines[1]? = some (lineOf 7 [1]) :=
  ⟨by decide, rfl, rfl, ⟨rfl, rfl⟩, by decide, rfl⟩

theorem meets_SampleShiftsOneBitIn :
    Ready (readyAt 1 .a64 []) ∧ (readyAt 1 .a64 []).lines[0]? = some Line.powerOn ∧
    (1 : Nat) = (if (readyAt 1 .a64 []).env.level 0 = .high then 1 else 0) ∧
    (0 : Nat) = (if (readyAt 0 .a64 []).env.level 0 = .high then 1 else 0) :=
  ⟨⟨rfl, rfl⟩, by decide +kernel⟩

/-- Each clause; the history at the capacity and one entry short of it. -/
theorem meets_FinalAppendsToBothHistories :
    16777215 < 2 ^ 24 ∧ State.reset.phase = .idle ∧ State.reset.constructed = false ∧
    Ready (store (lineOf 7 [1, 2]) (some 2)) ∧ (store (lineOf 7 [1, 2]) (some 2)).nlines ≤ 2 ∧
    (store (lineOf 7 [1, 2]) (some 2)).lines[1]? = some (lineOf 7 [1, 2]) ∧
    (store (lineOf 7 [1, 2]) (some 2)).params.hdepth = some 2 ∧ (lineOf 7 [1, 2]).rawHist.length = 2 ∧
    Ready (store (lineOf 7 [1]) (some 2)) ∧ (store (lineOf 7 [1]) (some 2)).lines[1]? = some (lineOf 7 [1]) ∧
    ∀ d, (store (lineOf 7 [1]) (some 2)).params.hdepth = some d → (lineOf 7 [1]).rawHist.length < d := by
  refine ⟨by decide, rfl, rfl, ⟨rfl, rfl⟩, by decide, rfl, rfl, rfl, ⟨rfl, rfl⟩, rfl, ?_⟩
  intro d h
  cases h
  decide

theorem meets_ResettThenFinalAppendsZero :
    Ready (store (lineOf 7 [1]) none) ∧ (store (lineOf 7 [1]) none).lines[1]? = some (lineOf 7 [1]) ∧
    (store (lineOf 7 [1]) none).lineFull 1 = false :=
  ⟨⟨rfl, rfl⟩, rfl, by decide +kernel⟩

theorem meets_ShiftingFromZeroSpellsTheBits : (bits 0xABCDEF).length ≤ 24 := by decide

/-- The two ends of each half (43_decoder.md R174). -/
theorem meets_DecodeIsABijection :
    decodeRaw 0x7FFFFE#24 = .int 8388606 ∧ decodeRaw 0x7FFFFF#24 = .int 8388607 ∧
    decodeRaw 0x800000#24 = .int (-8388608) ∧ decodeRaw 0x800001#24 = .int (-8388607) := by decide +kernel

theorem meets_DecodeWritesOnlyTheResult :
    State.reset.phase = .idle ∧ State.reset.constructed = false ∧ Ready (block 1 [] []) := ⟨rfl, rfl, rfl, rfl⟩

theorem meets_InvalidIsNeverStored :
    (∀ l ∈ reading.lines, SignedEntry.invalid ∉ l.signedHist) ∧ ∃ t, step reading = .next t :=
  ⟨by decide, ⟨_, rfl⟩⟩

theorem meets_PowerOnMeetsTheInvariant : (1 : Nat) ≤ 1 ∧ (2 : Nat) ^ 24 ≤ 2 ^ 24 := by decide

/-- A READ in progress meets the invariant and steps. -/
theorem meets_StepKeepsTheInvariant : Inv reading ∧ ∃ t, step reading = .next t := by
  refine ⟨?_, ⟨_, rfl⟩⟩
  constructor
  · decide
  · decide
  · decide
  · intro d h
    cases h
  all_goals decide

/-- A step that keeps the histories, and one that accepts a CONSTRUCT. -/
theorem meets_OnlyConstructEmptiesHistories :
    (∃ t, step reading = .next t) ∧ ∃ t, step ((store (lineOf 7 [1]) none).withFetchWord 32 0x10000000) = .next t :=
  ⟨⟨_, rfl⟩, ⟨_, rfl⟩⟩

theorem meets_ControlStateWriters :
    ran (.setcfg .b .g32) (block 1 [] []) (fun t => decide (t.cfg ≠ .a128)) = true ∧
    ran (.construct true .a .g64) State.reset (fun t => t.dbg && t.constructed) = true ∧
    ran (.decode 1#24) (block 1 [] []) (fun t => decide (t.res ≠ (block 1 [] []).res)) = true := by decide +kernel

theorem meets_DiagnosticsOnlyWhenDebug : reading.dbg = false ∧ ∃ t, step reading = .next t := ⟨rfl, ⟨_, rfl⟩⟩

theorem meets_EveryPulseIsHighThenLow :
    ∃ t, step ({ block 1 [] [60000] with phase := .pulsing, running := some .pulse } : State) = .next t := ⟨_, rfl⟩

theorem meets_CalibrationIsNeverTouched :
    (∀ dbg ch gain, Instr.read ≠ .construct dbg ch gain) ∧ ∃ t, exec .read (readyAt 0 .a64 (slowAfter 27)) = .next t :=
  ⟨fun _ _ _ => by simp, ⟨_, rfl⟩⟩

theorem meets_HostReadsHistoriesInIdle :
    Ready (store (lineOf 7 [1]) none) ∧ (store (lineOf 7 [1]) none).lines[1]? = some (lineOf 7 [1]) ∧
    0 < (lineOf 7 [1]).rawHist.length ∧ (lineOf 7 [1]).rawHist.length ≤ 1 ∧
    State.reset.constructed = false ∧ reading.phase ≠ .idle :=
  ⟨⟨rfl, rfl⟩, rfl, by decide, by decide, rfl, by decide⟩

/-- 10_state.md R39: at power-on the histories are unreadable, there being no controller. -/
theorem test_unreadable_at_reset : State.reset.hostLength 0 = none ∧ State.reset.hostRaw 0 0 = none := by decide

/-- A block of two lines, the second full at two entries, that becomes ready at poll number `q`. -/
def fullAt (q : Nat) (times : List Nat) : State :=
  { store (lineOf 7 [1, 2]) (some 2) with
    env := { (block 1 [] []).env with levels := List.replicate (2 * q) .high ++ [.low, .low], times := times } }

/-- Each clause: never ready, the last poll and the last data pulse, and the FINAL of the full line. -/
theorem meets_ReadXStopsAtTheFullLine :
    Ready (fullAt 19 (slowAfter 23)) ∧ (fullAt 19 (slowAfter 23)).params.hdepth = some 2 ∧
    (fullAt 19 (slowAfter 23)).lines[1]? = some (lineOf 7 [1, 2]) ∧ (lineOf 7 [1, 2]).rawHist.length = 2 ∧
    (∀ j < 1, (fullAt 19 (slowAfter 23)).lineFull j = false) ∧
    (∀ j < 20, pollReady (fullAt 20 []).env (fullAt 20 []).nlines j = false) ∧
    (∀ j < 19, pollReady (fullAt 19 (slowAfter 23)).env (fullAt 19 (slowAfter 23)).nlines j = false) ∧
    pollReady (fullAt 19 (slowAfter 23)).env (fullAt 19 (slowAfter 23)).nlines 19 = true ∧
    (∀ m < 23, (fullAt 19 (slowAfter 23)).params.trips ((fullAt 19 (slowAfter 23)).env.time m) = false) ∧
    (fullAt 19 (slowAfter 23)).params.trips ((fullAt 19 (slowAfter 23)).env.time 23) = true ∧
    (∀ m < 24, (fullAt 19 (slowAfter 24)).params.trips ((fullAt 19 (slowAfter 24)).env.time m) = false) :=
  ⟨⟨rfl, rfl⟩, by decide +kernel⟩

end Sys2Proof.Tests
end

section
/-! PULSE as a command of its own (40_sequencer.md R101, R111): the guard in numbers, the end of an operation in the
terms of the statements, and the whole state after PULSE. -/

namespace Sys2Proof.Machine

/-- The guard of 60 microseconds as an inequality, TIME_RES being `resNum / resDen` ns (log 19). -/
theorem Params.trips_iff (p : Params) (e : Nat) : p.trips e = true ↔ 60000 * p.resDen ≤ e * p.resNum :=
  decide_eq_true_iff

/-- An operation that kept `res` and gave no answer on its way ends as `EndsWith` says (60_exceptions.md R198). -/
theorem State.endOperation_endsWith {s u : State} (c : Cause) (hres : u.res = s.res) (hans : u.answers = s.answers) :
    EndsWith s (u.endOperation c) c := by
  simp [EndsWith, State.answer, hres, hans]

/-- PULSE on its own: the subroutine's effect on the pins, the draws and the diagnostics, then the end of the operation.
That end writes `phase` and `running`, so Pulsing is not seen after it. -/
theorem State.runPulse_eq (s : State) :
    s.runPulse =
      { s with
        clk := .low
        trace := s.trace ++ pulseEvents (s.env.time 0)
        env := s.env.skip 0 1
        diag := if s.params.trips (s.env.time 0) then diagAfter s [.timingViolation (s.env.time 0)] else s.diag
      }.endOperation (if s.params.trips (s.env.time 0) then .timingViolation else .ok) := by
  rw [State.runPulse, State.pulse_eq]
  rfl

theorem exec_pulse_ready {s : State} (h : Ready s) : exec .pulse s = .next s.runPulse := by
  rw [exec, execPulse, State.accept_ready h]

/-- Settles O26: an accepted PULSE is `State.runPulse`, whose cause and diagnostics are decided by the guard, which
`Params.trips_iff` puts in numbers. -/
theorem pulseWritesHighThenLow : Obligations.PulseWritesHighThenLow := by
  refine ⟨by decide, fun s hs => ⟨s.runPulse, exec_pulse_ready hs, ?_⟩⟩
  simp only [← Params.trips_iff]
  rw [State.runPulse_eq]
  exact ⟨State.endOperation_endsWith _ rfl rfl, ⟨rfl, rfl, rfl, rfl, rfl⟩, rfl, rfl, rfl, rfl, rfl⟩

end Sys2Proof.Machine
end

section
/-! The three values of CFG and their layouts (41_chgain_encoder.md R130, 10_state.md R26). -/

namespace Sys2Proof.Machine

theorem Cfg.eq_a128_or_b32_or_a64 (c : Cfg) : c = .a128 ∨ c = .b32 ∨ c = .a64 := by
  cases c with
  | a128 => exact .inl rfl
  | b32 => exact .inr (.inl rfl)
  | a64 => exact .inr (.inr rfl)

/-- The three-bit layout names the configuration, so what is said of a value by name may be said by its layout. -/
theorem Cfg.bits_injective : Function.Injective Cfg.bits := by
  intro c d
  cases c <;> cases d <;> decide

theorem Cfg.pulses_eq_of_bits_eq {c d : Cfg} (h : c.bits = d.bits) : c.pulses = d.pulses :=
  congrArg Cfg.pulses (Cfg.bits_injective h)

/-- Settles O21: the counts and totals by name are computed; those by layout follow from them, since a layout
determines its configuration. -/
theorem trailingPulseCounts : Obligations.TrailingPulseCounts := by
  refine ⟨rfl, rfl, rfl, rfl, rfl, rfl, Cfg.eq_a128_or_b32_or_a64, fun c => ⟨?_, ?_, ?_⟩⟩
  · exact Cfg.pulses_eq_of_bits_eq (d := .a128)
  · exact Cfg.pulses_eq_of_bits_eq (d := .b32)
  · exact Cfg.pulses_eq_of_bits_eq (d := .a64)

end Sys2Proof.Machine
end

section
/-! The word of a format L instruction and the one line such an instruction changes (30_encoding.md R71, R74). -/

namespace Sys2Proof

/-- The assembled word as an OR of its fields at their positions (30_encoding.md R71). -/
theorem assemble_eq_or (o : BitVec 4) (x : BitVec 24) :
    assemble o x = o.setWidth 32 <<< 28 ||| x.setWidth 32 := by
  apply BitVec.eq_of_getLsbD_eq
  intro k hk
  simp only [assemble, BitVec.getLsbD_append, BitVec.getLsbD_or, BitVec.getLsbD_shiftLeft, BitVec.getLsbD_setWidth]
  by_cases hx : k < 24
  · have hlow : k < 28 := by omega
    simp [hx, hk, hlow]
  · have htop : x.getLsbD k = false := BitVec.getLsbD_of_ge x k (by omega)
    have hop : k - 24 < 4 ↔ k < 28 := by omega
    have hw : k - 28 < 32 := by omega
    simp [hx, hk, htop, hop, hw, Nat.sub_sub]

/-- A line index that fits its field stands in the word as it is (30_encoding.md R74). -/
theorem formatL_eq_or {line : Nat} (h : line < 2 ^ 24) (o : BitVec 4) :
    formatL o line = o.setWidth 32 <<< 28 ||| BitVec.ofNat 32 line := by
  rw [formatL, assemble_eq_or, BitVec.setWidth_ofNat_of_le_of_lt (by decide) h]

namespace Machine

theorem State.lt_nlines {s : State} {i : Nat} {l : Line} (hl : s.lines[i]? = some l) : i < s.nlines :=
  (List.getElem?_eq_some_iff.mp hl).1

theorem modify_eq_set_of_getElem? {α : Type} {ls : List α} {i : Nat} {l : α} (hl : ls[i]? = some l) (f : α → α) :
    ls.modify i f = ls.set i (f l) := by
  simp [List.modify_eq_set_getElem?, hl]

theorem State.acceptLine_notConstructed {s : State} (h : s.phase = .idle) (hc : s.constructed = false) (i : Nat)
    (body : State → State) : s.acceptLine i body = onlyResult s .notConstructed :=
  State.accept_notConstructed h hc _

end Machine

end Sys2Proof
end

section
/-! DECODE in the terms of two's complement, and FINAL on one line (43_decoder.md R170 to R173, 42_accumulator.md R153). -/

namespace Sys2Proof.Machine

/-- The three branches of DECODE give the two's-complement value: the range test rejects nothing, and the complement plus one
of a word with bit 23 set is `2 ^ 24` less that word (43_decoder.md R170, R172, R173; the spec's own decision D6). -/
theorem decodeRaw_eq_toInt (raw : Raw) : decodeRaw raw = .int raw.toInt := by
  rw [decodeRaw, rangeInvalid_eq_false, BitVec.toInt_eq_msb_cond, BitVec.msb_eq_getLsbD_last]
  by_cases hneg : raw.getLsbD 23 = true
  · have hcompl : (raw ^^^ 0xFFFFFF#24).toNat = 2 ^ 24 - 1 - raw.toNat :=
      (congrArg BitVec.toNat BitVec.xor_allOnes).trans BitVec.toNat_not
    have hlt := raw.isLt
    rw [if_pos hneg, if_pos hneg, hcompl]
    simp only [Bool.false_eq_true, ↓reduceIte, SignedEntry.int.injEq]
    omega
  · rw [if_neg hneg, if_neg hneg]
    rfl

/-- A history shorter than every finite HDEPTH is not full (60_exceptions.md R199; log 12). -/
theorem Params.full_eq_false {p : Params} {n : Nat} (h : ∀ d, p.hdepth = some d → n < d) : p.full n = false := by
  unfold Params.full
  split
  · rfl
  · next d hd => simpa using h d hd

theorem Params.full_of_hdepth {p : Params} {d : Nat} (hd : p.hdepth = some d) : p.full d = true := by
  simp [Params.full, hd]

theorem State.lineFull_eq {s : State} {i : Nat} {l : Line} (hl : s.lines[i]? = some l) :
    s.lineFull i = s.params.full l.rawHist.length := by
  simp [State.lineFull, hl]

/-- FINAL on a line of the block is decided by whether its history is full (60_exceptions.md R199). -/
theorem exec_final_ready {s : State} {i : Nat} {l : Line} (h : Ready s) (hl : s.lines[i]? = some l) :
    exec (.final i) s = .next
      (if s.params.full l.rawHist.length then onlyResult s .historyOverflow else onlyResult (s.final i) .ok) := by
  rw [exec, execFinal, State.acceptLine_ready h (State.lt_nlines hl), State.lineFull_eq hl, State.refuse_eq,
    State.complete_eq]

/-- Settles O42: the refusals are those of format L and of a full history; otherwise `State.final_eq` says what is appended,
and `decodeRaw_eq_toInt` that the signed entry is the two's-complement value. -/
theorem finalAppendsToBothHistories : Obligations.FinalAppendsToBothHistories := by
  refine fun s i => ⟨fun hi => formatL_eq_or hi 0xA, fun hp hc => ?_, fun hs hi => ?_, fun hs l hl => ⟨?_, ?_⟩⟩
  · rw [exec, execFinal, State.acceptLine_notConstructed hp hc]
  · rw [exec, execFinal, State.acceptLine_outOfRange hs hi]
  · intro d hd hlen
    rw [exec_final_ready hs hl, hlen, Params.full_of_hdepth hd]
    rfl
  · intro hroom
    have hfull := Params.full_eq_false hroom
    rw [exec_final_ready hs hl, hfull, State.final_eq s i l hl hfull, modify_eq_set_of_getElem? hl, decodeRaw_eq_toInt]
    rfl

end Sys2Proof.Machine
end

section
/-! RESETT as a command of its own (42_accumulator.md R151). -/

namespace Sys2Proof.Machine

/-- RESETT on a line of the block, everything it does. -/
theorem State.resett_eq {s : State} {i : Nat} {l : Line} (hl : s.lines[i]? = some l) :
    s.resett i = { s with lines := s.lines.set i { l with acc := 0#24 } } := by
  rw [State.resett, State.setLine, modify_eq_set_of_getElem? hl]
  rfl

/-- Settles O40: the refusals are those of format L, and an accepted RESETT is `State.resett` on its line. -/
theorem resettZeroesOneAccumulator : Obligations.ResettZeroesOneAccumulator := by
  refine fun s i => ⟨fun hi => formatL_eq_or hi 0x8, fun hp hc => ?_, fun hs hi => ?_, fun hs l hl => ?_⟩
  · rw [exec, execResett, State.acceptLine_notConstructed hp hc]
  · rw [exec, execResett, State.acceptLine_outOfRange hs hi]
  · rw [exec, execResett, State.acceptLine_ready hs (State.lt_nlines hl), State.complete_eq, State.resett_eq hl]

end Sys2Proof.Machine
end

section
/-! The decoder on an assembled word, and the two round trips (30_encoding.md R71 to R78). -/

namespace Sys2Proof

/-- A 24-bit operand is the assembly of its `dcgg` fields when the twenty bits above them are 0 (30_encoding.md R75). -/
theorem operandC_of_fields {o : BitVec 24} (h : o.extractLsb' 4 20 = 0) :
    operandC (dbgField o) (channelField o) (gainField o) = o := by
  have hlt : o.toNat < 16 := by
    have := congrArg BitVec.toNat h
    have := o.isLt
    simp [BitVec.extractLsb'_toNat, Nat.shiftRight_eq_div_pow] at *
    omega
  have key : ∀ n < 16, operandC (dbgField (BitVec.ofNat 24 n)) (channelField (BitVec.ofNat 24 n))
      (gainField (BitVec.ofNat 24 n)) = BitVec.ofNat 24 n := by decide
  simpa using key o.toNat hlt

/-- The same without `dbg`, when the twenty-one bits above `cgg` are 0 (30_encoding.md R75). -/
theorem operandC_of_fields_setcfg {o : BitVec 24} (h : o.extractLsb' 3 21 = 0) :
    operandC false (channelField o) (gainField o) = o := by
  have hlt : o.toNat < 8 := by
    have := congrArg BitVec.toNat h
    have := o.isLt
    simp [BitVec.extractLsb'_toNat, Nat.shiftRight_eq_div_pow] at *
    omega
  have key : ∀ n < 8, operandC false (channelField (BitVec.ofNat 24 n)) (gainField (BitVec.ofNat 24 n)) =
      BitVec.ofNat 24 n := by decide
  simpa using key o.toNat hlt

theorem decode_assemble_L (line : Nat) (h : line < 2 ^ 24) :
    decode (formatL 0x8 line) = .legal (.resett line) ∧ decode (formatL 0x9 line) = .legal (.sample line) ∧
      decode (formatL 0xA line) = .legal (.final line) := by
  simpa [decode, formatL] using h

/-- Settles O1: the fields of an assembled word read back, those of format C by `operandC_fields`, and a line index below
`2 ^ 24` survives its field. -/
theorem encodeDecodeRoundTrip : Obligations.EncodeDecodeRoundTrip := by
  intro i hwf
  cases i with
  | construct dbg ch gain =>
    obtain ⟨hdbg, hch, hgain, hzero, -⟩ := operandC_fields dbg ch gain
    simp [encode, formatC, decode, hdbg, hch, hgain, hzero]
  | setcfg ch gain =>
    obtain ⟨-, hch, hgain, -, hzero⟩ := operandC_fields false ch gain
    simp [encode, formatC, decode, hch, hgain, hzero]
  | prepare => rfl
  | pulse => rfl
  | wrgain => rfl
  | read => rfl
  | resett line => exact (decode_assemble_L line (of_decide_eq_true hwf)).1
  | sample line => exact (decode_assemble_L line (of_decide_eq_true hwf)).2.1
  | final line => exact (decode_assemble_L line (of_decide_eq_true hwf)).2.2
  | decode raw => simp [encode, formatD, decode]

theorem decodeK_eq_legal {i j : Instr} {o : BitVec 24} (h : decodeK i o = .legal j) : o = 0#24 ∧ i = j := by
  unfold decodeK at h
  split at h
  · next ho => exact ⟨ho, Decoded.legal.inj h⟩
  · cases h

/-- What a legal word says of its fields: the `zero` field is 0, the instruction is well-formed, and its encoding assembles the
same opcode and operand (30_encoding.md R71 to R76). -/
theorem decode_eq_legal {w : Word} {i : Instr} (h : decode w = .legal i) :
    zeroField w = 0 ∧ i.wellFormed = true ∧ encode i = assemble (opcodeField w) (operandField w) := by
  unfold decode at h
  split at h
  case isFalse => cases h
  next hzero =>
  refine ⟨hzero, ?_⟩
  have hline := (operandField w).isLt
  have hop {k : Nat} (hk : (opcodeField w).toNat = k) : BitVec.ofNat 4 k = opcodeField w := by simp [← hk]
  split at h
  case h_11 => cases h
  case h_1 hk =>
    split at h
    · next hres =>
      cases h
      exact ⟨rfl, by rw [encode, formatC, operandC_of_fields hres, ← hop hk]; rfl⟩
    · cases h
  case h_2 hk =>
    split at h
    · next hres =>
      cases h
      exact ⟨rfl, by rw [encode, formatC, operandC_of_fields_setcfg hres, ← hop hk]; rfl⟩
    · cases h
  case h_3 hk | h_4 hk | h_5 hk | h_6 hk =>
    obtain ⟨ho, rfl⟩ := decodeK_eq_legal h
    exact ⟨rfl, by rw [ho, ← hop hk]; rfl⟩
  case h_7 hk | h_8 hk | h_9 hk =>
    cases h
    exact ⟨decide_eq_true hline, by rw [encode, formatL, BitVec.ofNat_toNat, BitVec.setWidth_eq, ← hop hk]; rfl⟩
  case h_10 hk =>
    cases h
    exact ⟨rfl, by rw [encode, formatD, ← hop hk]; rfl⟩

/-- Settles O2: `decode_eq_legal`, and a word whose `zero` field is 0 is the assembly of its fields. -/
theorem legalWordIsItsEncoding : Obligations.LegalWordIsItsEncoding := by
  intro w i h
  obtain ⟨hzero, hwf, henc⟩ := decode_eq_legal h
  exact ⟨hwf, henc.trans (assemble_fields w hzero)⟩

end Sys2Proof
end

section
/-! The word by its fields: the OR of its parts, the one row it selects, and the illegal words (30_encoding.md R72, R78, R85). -/

namespace Sys2Proof

/-- Settles O3: formats L and D by `assemble_eq_or`; the sixteen words of format C and the four of format K are computed. -/
theorem encodingIsMatchOrOperands : Obligations.EncodingIsMatchOrOperands := by
  refine ⟨?_, ?_, fun line h => ⟨formatL_eq_or h 0x8, formatL_eq_or h 0x9, formatL_eq_or h 0xA⟩,
    assemble_eq_or 0xB, rfl, rfl, rfl, rfl⟩
  · intro dbg ch gain
    cases dbg <;> cases ch <;> cases gain <;> rfl
  · intro ch gain
    cases ch <;> cases gain <;> rfl

/-- Settles O6: the decoder evaluated on each word. -/
theorem writtenWordsDecode : Obligations.WrittenWordsDecode := by
  unfold Obligations.WrittenWordsDecode
  decide

/-- A word selects the row of the instruction it decodes to (30_encoding.md R72, R85). -/
theorem selects_of_decode {w : Word} {i : Instr} (h : decode w = .legal i) : i.row.selects w = true := by
  rw [← (legalWordIsItsEncoding w i h).2]
  cases i with
  | construct dbg ch gain => exact Laws.RowMatch.construct dbg ch gain
  | setcfg ch gain => exact Laws.RowMatch.setcfg ch gain
  | prepare => exact Laws.RowMatch.prepare
  | pulse => exact Laws.RowMatch.pulse
  | wrgain => exact Laws.RowMatch.wrgain
  | read => exact Laws.RowMatch.read
  | resett line => exact Laws.RowMatch.resett line
  | sample line => exact Laws.RowMatch.sample line
  | final line => exact Laws.RowMatch.final line
  | decode raw => exact Laws.RowMatch.decode raw

/-- A row that compares the opcode and `zero` fields whole says these three things of a word that selects it
(30_encoding.md R71, R72). -/
theorem fields_of_selects {r : OpRow} {w : Word} (hop : opcodeField r.mask = 0xF#4) (hzero : zeroField r.mask = 0xF#4)
    (h : r.selects w = true) :
    opcodeField w = opcodeField r.pattern ∧ zeroField w = zeroField r.pattern ∧
      operandField w &&& operandField r.mask = operandField r.pattern := by
  obtain ⟨m, p, mask⟩ := r
  have hw : w &&& mask = p := of_decide_eq_true h
  have hfull (x : BitVec 4) : x &&& 0xF#4 = x := BitVec.and_allOnes
  subst hw
  refine ⟨?_, ?_, BitVec.extractLsb'_and.symm⟩
  · rw [← hfull (opcodeField w), ← hop]
    exact BitVec.extractLsb'_and.symm
  · rw [← hfull (zeroField w), ← hzero]
    exact BitVec.extractLsb'_and.symm

/-- A word that selects a row decodes to an instruction of that row (30_encoding.md R72). -/
theorem decode_of_selects {w : Word} (i : Instr) (h : i.row.selects w = true) :
    ∃ j, decode w = .legal j ∧ j.row = i.row := by
  cases i with
  | construct dbg ch gain =>
    obtain ⟨hop, hzero, hlow⟩ :
        opcodeField w = 0x1#4 ∧ zeroField w = 0#4 ∧ operandField w &&& 0xFFFFF0#24 = 0#24 :=
      fields_of_selects (r := ⟨_, 0x10000000, 0xFFFFFFF0⟩) rfl rfl h
    have hres : (operandField w).extractLsb' 4 20 = 0#20 := by
      have := congrArg (BitVec.extractLsb' 4 20) hlow
      rw [BitVec.extractLsb'_and] at this
      exact BitVec.and_allOnes.symm.trans this
    exact ⟨.construct (dbgField (operandField w)) (channelField (operandField w)) (gainField (operandField w)),
      by simp [decode, hop, hzero, hres], rfl⟩
  | setcfg ch gain =>
    obtain ⟨hop, hzero, hlow⟩ :
        opcodeField w = 0x2#4 ∧ zeroField w = 0#4 ∧ operandField w &&& 0xFFFFF8#24 = 0#24 :=
      fields_of_selects (r := ⟨_, 0x20000000, 0xFFFFFFF8⟩) rfl rfl h
    have hres : (operandField w).extractLsb' 3 21 = 0#21 := by
      have := congrArg (BitVec.extractLsb' 3 21) hlow
      rw [BitVec.extractLsb'_and] at this
      exact BitVec.and_allOnes.symm.trans this
    exact ⟨.setcfg (channelField (operandField w)) (gainField (operandField w)), by simp [decode, hop, hzero, hres], rfl⟩
  | prepare =>
    obtain ⟨hop, hzero, hlow⟩ :
        opcodeField w = 0x3#4 ∧ zeroField w = 0#4 ∧ operandField w &&& 0xFFFFFF#24 = 0#24 :=
      fields_of_selects (r := ⟨_, 0x30000000, 0xFFFFFFFF⟩) rfl rfl h
    exact ⟨.prepare, by simp [decode, decodeK, hop, hzero, BitVec.and_allOnes.symm.trans hlow], rfl⟩
  | pulse =>
    obtain ⟨hop, hzero, hlow⟩ :
        opcodeField w = 0x4#4 ∧ zeroField w = 0#4 ∧ operandField w &&& 0xFFFFFF#24 = 0#24 :=
      fields_of_selects (r := ⟨_, 0x40000000, 0xFFFFFFFF⟩) rfl rfl h
    exact ⟨.pulse, by simp [decode, decodeK, hop, hzero, BitVec.and_allOnes.symm.trans hlow], rfl⟩
  | wrgain =>
    obtain ⟨hop, hzero, hlow⟩ :
        opcodeField w = 0x5#4 ∧ zeroField w = 0#4 ∧ operandField w &&& 0xFFFFFF#24 = 0#24 :=
      fields_of_selects (r := ⟨_, 0x50000000, 0xFFFFFFFF⟩) rfl rfl h
    exact ⟨.wrgain, by simp [decode, decodeK, hop, hzero, BitVec.and_allOnes.symm.trans hlow], rfl⟩
  | read =>
    obtain ⟨hop, hzero, hlow⟩ :
        opcodeField w = 0x6#4 ∧ zeroField w = 0#4 ∧ operandField w &&& 0xFFFFFF#24 = 0#24 :=
      fields_of_selects (r := ⟨_, 0x60000000, 0xFFFFFFFF⟩) rfl rfl h
    exact ⟨.read, by simp [decode, decodeK, hop, hzero, BitVec.and_allOnes.symm.trans hlow], rfl⟩
  | resett line =>
    obtain ⟨hop, hzero, -⟩ :
        opcodeField w = 0x8#4 ∧ zeroField w = 0#4 ∧ operandField w &&& 0#24 = 0#24 :=
      fields_of_selects (r := ⟨_, 0x80000000, 0xFF000000⟩) rfl rfl h
    exact ⟨.resett (operandField w).toNat, by simp [decode, hop, hzero], rfl⟩
  | sample line =>
    obtain ⟨hop, hzero, -⟩ :
        opcodeField w = 0x9#4 ∧ zeroField w = 0#4 ∧ operandField w &&& 0#24 = 0#24 :=
      fields_of_selects (r := ⟨_, 0x90000000, 0xFF000000⟩) rfl rfl h
    exact ⟨.sample (operandField w).toNat, by simp [decode, hop, hzero], rfl⟩
  | final line =>
    obtain ⟨hop, hzero, -⟩ :
        opcodeField w = 0xA#4 ∧ zeroField w = 0#4 ∧ operandField w &&& 0#24 = 0#24 :=
      fields_of_selects (r := ⟨_, 0xA0000000, 0xFF000000⟩) rfl rfl h
    exact ⟨.final (operandField w).toNat, by simp [decode, hop, hzero], rfl⟩
  | decode raw =>
    obtain ⟨hop, hzero, -⟩ :
        opcodeField w = 0xB#4 ∧ zeroField w = 0#4 ∧ operandField w &&& 0#24 = 0#24 :=
      fields_of_selects (r := ⟨_, 0xB0000000, 0xFF000000⟩) rfl rfl h
    exact ⟨.decode (operandField w), by simp [decode, hop, hzero], rfl⟩

/-- The rows of the opcode map are those of ten instructions, pairwise different (30_encoding.md R72). -/
theorem opcodeRows_filter_eq (i : Instr) : opcodeRows.filter (fun r => r = i.row) = [i.row] := by
  cases i <;> rfl

theorem mem_opcodeRows {r : OpRow} (h : r ∈ opcodeRows) : ∃ i : Instr, r = i.row := by
  simp only [opcodeRows, List.mem_cons, List.not_mem_nil, or_false] at h
  rcases h with rfl | rfl | rfl | rfl | rfl | rfl | rfl | rfl | rfl | rfl <;> exact ⟨_, rfl⟩

/-- Settles O4: a row is selected exactly when the word decodes to an instruction of that row. -/
theorem wordSelectsAtMostOneRow : Obligations.WordSelectsAtMostOneRow := by
  refine fun w => ⟨fun i h => ?_, fun why h => ?_⟩
  · rw [← opcodeRows_filter_eq i]
    apply List.filter_congr
    intro r hr
    obtain ⟨j, rfl⟩ := mem_opcodeRows hr
    rw [Bool.eq_iff_iff, decide_eq_true_iff]
    constructor
    · intro hsel
      obtain ⟨k, hk, hrow⟩ := decode_of_selects j hsel
      rw [h] at hk
      cases hk
      exact hrow.symm
    · intro hrow
      exact hrow ▸ selects_of_decode h
  · rw [List.filter_eq_nil_iff]
    intro r hr hsel
    obtain ⟨j, rfl⟩ := mem_opcodeRows hr
    obtain ⟨k, hk, -⟩ := decode_of_selects j hsel
    rw [h] at hk
    cases hk

theorem exists_ite_eq_illegal {P : Prop} [Decidable P] {i : Instr} {reason : IllegalWord} :
    (∃ why, (if P then Decoded.legal i else .illegal reason) = .illegal why) ↔ ¬ P := by
  by_cases h : P <;> simp [h]

/-- The illegal words in the terms of the decoder's fields, one case per opcode (30_encoding.md R78). -/
theorem decode_illegal_iff (w : Word) :
    (∃ why, decode w = .illegal why) ↔
      (opcodeField w ∈ [0x0#4, 0x7#4, 0xC#4, 0xD#4, 0xE#4, 0xF#4] ∨ zeroField w ≠ 0#4 ∨
        (opcodeField w ∈ [0x3#4, 0x4#4, 0x5#4, 0x6#4] ∧ operandField w ≠ 0#24) ∨
        (opcodeField w = 0x1#4 ∧ (operandField w).extractLsb' 4 20 ≠ 0#20) ∨
        (opcodeField w = 0x2#4 ∧ (operandField w).extractLsb' 3 21 ≠ 0#21)) := by
  by_cases hzero : zeroField w = 0#4
  · unfold decode
    generalize opcodeField w = o
    obtain ⟨⟨n, hn⟩⟩ := o
    interval_cases n <;> simp [hzero, decodeK, exists_ite_eq_illegal]
  · simp [decode, hzero]

/-- Settles O5: `decode_illegal_iff`, the reserved operand bits being bits of the word. -/
theorem illegalWordsAreThoseOfTheSpec : Obligations.IllegalWordsAreThoseOfTheSpec := by
  intro w
  have hbits (a b : Nat) (h : a + b ≤ 24) : (operandField w).extractLsb' a b = w.extractLsb' a b := by
    rw [operandField, BitVec.extractLsb'_extractLsb'_of_le h]
  rw [decode_illegal_iff, hbits 4 20 (by decide), hbits 3 21 (by decide)]
  rfl

/-- Settles O22: the low three bits of both words are the code of the pair, for each of the three pairs that are valid. -/
theorem storedConfigIsTheOperand : Obligations.StoredConfigIsTheOperand := by
  intro dbg ch gain c h
  cases ch <;> cases gain <;> cases h <;> cases dbg <;> exact ⟨rfl, rfl⟩

end Sys2Proof
end

section
/-! What every instruction does with the tests of 60_exceptions.md R197: Busy, the first refusal, or its own meaning; and what
`start` does in the same three cases. -/

namespace Sys2Proof.Machine

/-- What an instruction that meets no refusal does: `exec` without its tests (30_encoding.md R72). -/
def accepted : Instr → State → State
  | .construct dbg ch gain, s =>
    match cfgOf ch gain with
    | none => s
    | some c => onlyResult (s.construct dbg c) .ok
  | .setcfg ch gain, s =>
    match cfgOf ch gain with
    | none => s
    | some c => onlyResult { s with cfg := c } .ok
  | .prepare, s => s.runPrepare
  | .pulse, s => s.runPulse
  | .wrgain, s => s.runWrgain
  | .read, s => s.runRead
  | .resett line, s => onlyResult (s.resett line) .ok
  | .sample line, s => onlyResult (s.sample line) .ok
  | .final line, s => onlyResult (s.final line) .ok
  | .decode raw, s => onlyResult { s with res := (decodeRaw raw).res } .ok

/-- How an instruction that meets no refusal begins: the four commands that leave Idle stop at their first turn, the others are
performed (40_sequencer.md R110). -/
def begun : Instr → State → State
  | .prepare, s => (s.enter .prepare .preparing).startPolling
  | .pulse, s => s.enter .pulse .pulsing
  | .wrgain, s => { s.enter .wrgain .settingGain with tp := 0 }
  | .read, s => (s.enter .read .preparing).startPolling
  | .construct dbg ch gain, s => accepted (.construct dbg ch gain) s
  | .setcfg ch gain, s => accepted (.setcfg ch gain) s
  | .resett line, s => accepted (.resett line) s
  | .sample line, s => accepted (.sample line) s
  | .final line, s => accepted (.final line) s
  | .decode raw, s => accepted (.decode raw) s

/-! ### Busy -/

theorem exec_busy (i : Instr) {s : State} (h : s.phase ≠ .idle) : exec i s = .next (onlyBusyAnswer s) := by
  cases i with
  | construct dbg ch gain => simp [exec, execConstruct, State.busy_not_idle h, State.answerBusy_eq]
  | setcfg | prepare | pulse | wrgain | read | resett | sample | final | decode =>
    exact congrArg _ (State.accept_busy h _)

theorem start_busy (i : Instr) {s : State} (h : s.phase ≠ .idle) : start i s = .next (onlyBusyAnswer s) := by
  cases i with
  | prepare | pulse | wrgain | read => exact congrArg _ (State.accept_busy h _)
  | construct | setcfg | resett | sample | final | decode => rw [start, exec_busy _ h]

/-! ### The gates in Idle -/

/-- The gate of a command other than CONSTRUCT, in one equation (60_exceptions.md R197 (1), (3)). -/
theorem State.accept_idle {s : State} (h : s.phase = .idle) (body : State → State) :
    s.accept body = if s.constructed = false then onlyResult s .notConstructed else body s := by
  cases hc : s.constructed with
  | false => simp [State.accept_notConstructed h hc]
  | true => simp [State.accept_ready ⟨hc, h⟩]

/-- The gate of a command of format L, in one equation (60_exceptions.md R197 (1), (3), (4)). -/
theorem State.acceptLine_idle {s : State} (h : s.phase = .idle) (i : Nat) (body : State → State) :
    s.acceptLine i body =
      if s.constructed = false then onlyResult s .notConstructed
      else if s.nlines ≤ i then onlyResult s .illegalCommand else body s := by
  rw [State.acceptLine, State.accept_idle h]
  by_cases hi : s.nlines ≤ i
  · simp [hi, Nat.not_lt.mpr hi, State.refuse_eq]
  · simp [hi, Nat.not_le.mp hi]

/-- In Idle the first refusal decides, and without one the instruction is performed (60_exceptions.md R197, R198). -/
theorem exec_idle (i : Instr) {s : State} (h : s.phase = .idle) :
    exec i s = .next ((firstRefusal s i).elim (accepted i s) (onlyResult s)) := by
  cases i with
  | construct dbg ch gain =>
    rw [exec, execConstruct, State.busy_idle h, firstRefusal, accepted]
    cases cfgOf ch gain <;> rfl
  | setcfg ch gain =>
    rw [exec, execSetcfg, State.accept_idle h, firstRefusal, accepted]
    cases cfgOf ch gain <;> cases s.constructed <;> rfl
  | prepare =>
    rw [exec, execPrepare, State.accept_idle h, firstRefusal, accepted]
    split <;> rfl
  | pulse =>
    rw [exec, execPulse, State.accept_idle h, firstRefusal, accepted]
    split <;> rfl
  | wrgain =>
    rw [exec, execWrgain, State.accept_idle h, firstRefusal, accepted]
    split <;> rfl
  | read =>
    rw [exec, execRead, State.accept_idle h, firstRefusal, accepted]
    cases s.constructed <;> cases s.anyFull <;> rfl
  | resett line =>
    rw [exec, execResett, State.acceptLine_idle h, firstRefusal, accepted]
    split
    · rfl
    · split <;> rfl
  | sample line =>
    rw [exec, execSample, State.acceptLine_idle h, firstRefusal, accepted]
    split
    · rfl
    · split <;> rfl
  | final line =>
    rw [exec, execFinal, State.acceptLine_idle h, firstRefusal, accepted]
    cases s.lineFull line
    all_goals
      split
      · rfl
      · split <;> rfl
  | decode raw =>
    rw [exec, execDecode, State.accept_idle h, firstRefusal, accepted]
    split <;> rfl

/-- The same of `start` (60_exceptions.md R197, 40_sequencer.md R110). -/
theorem start_idle (i : Instr) {s : State} (h : s.phase = .idle) :
    start i s = .next ((firstRefusal s i).elim (begun i s) (onlyResult s)) := by
  cases i with
  | prepare | pulse | wrgain =>
    rw [start, State.accept_idle h, firstRefusal, begun]
    split <;> rfl
  | read =>
    rw [start, State.accept_idle h, firstRefusal, begun]
    cases s.constructed <;> cases s.anyFull <;> rfl
  | construct | setcfg | resett | sample | final | decode => rw [start, exec_idle _ h, begun]

section Gate

variable {i : Instr} {s : State} (h : s.phase = .idle)
include h

theorem exec_of_refusal {c : Cause} (hr : firstRefusal s i = some c) :
    exec i s = .next (onlyResult s c) := by
  rw [exec_idle i h, hr]; rfl

theorem exec_of_accept (hr : firstRefusal s i = none) :
    exec i s = .next (accepted i s) := by
  rw [exec_idle i h, hr]; rfl

theorem start_of_refusal {c : Cause} (hr : firstRefusal s i = some c) :
    start i s = .next (onlyResult s c) := by
  rw [start_idle i h, hr]; rfl

theorem start_of_accept (hr : firstRefusal s i = none) :
    start i s = .next (begun i s) := by
  rw [start_idle i h, hr]; rfl

end Gate

/-- Everything `exec` can answer: Busy, the first refusal, or what the instruction does. -/
theorem exec_next {i : Instr} {s t : State} (h : exec i s = .next t) :
    (s.phase ≠ .idle ∧ t = onlyBusyAnswer s) ∨
      (s.phase = .idle ∧ ∃ c, firstRefusal s i = some c ∧ t = onlyResult s c) ∨
      (s.phase = .idle ∧ firstRefusal s i = none ∧ t = accepted i s) := by
  by_cases hp : s.phase = .idle
  · cases hr : firstRefusal s i with
    | some c => exact .inr (.inl ⟨hp, c, rfl, Host.Outcome.next.inj (h.symm.trans (exec_of_refusal hp hr))⟩)
    | none => exact .inr (.inr ⟨hp, rfl, Host.Outcome.next.inj (h.symm.trans (exec_of_accept hp hr))⟩)
  · exact .inl ⟨hp, Host.Outcome.next.inj (h.symm.trans (exec_busy i hp))⟩

/-- Everything `start` can answer in Idle: what `exec` answers to a refusal, or the beginning of the instruction. -/
theorem start_next {i : Instr} {s t : State} (hp : s.phase = .idle) (h : start i s = .next t) :
    (∃ c, firstRefusal s i = some c ∧ t = onlyResult s c) ∨ (firstRefusal s i = none ∧ t = begun i s) := by
  cases hr : firstRefusal s i with
  | some c => exact .inl ⟨c, rfl, Host.Outcome.next.inj (h.symm.trans (start_of_refusal hp hr))⟩
  | none => exact .inr ⟨rfl, Host.Outcome.next.inj (h.symm.trans (start_of_accept hp hr))⟩

end Sys2Proof.Machine
end

section
/-! The refusals and the command port (60_exceptions.md R190 to R198, 30_encoding.md R70, R77). -/

namespace Sys2Proof.Machine

/-- Settles O11: the Busy test comes first in `exec` and in `start`. -/
theorem busyCommandIsNotExecuted : Obligations.BusyCommandIsNotExecuted :=
  fun i _ h => ⟨exec_busy i h, start_busy i h⟩

theorem firstRefusal_notConstructed {i : Instr} {s : State} (hc : s.constructed = false)
    (hi : ∀ dbg ch gain, i ≠ .construct dbg ch gain) : firstRefusal s i = some .notConstructed := by
  cases i with
  | construct dbg ch gain => exact absurd rfl (hi dbg ch gain)
  | setcfg | prepare | pulse | wrgain | read | resett | sample | final | decode => exact if_pos hc

/-- Settles O13: NotConstructed is the first test of every instruction but CONSTRUCT, whose one test is that of its pair. -/
theorem notConstructedRefusesAllButConstruct : Obligations.NotConstructedRefusesAllButConstruct :=
  ⟨fun _ _ hp hc hi => exec_of_refusal hp (firstRefusal_notConstructed hc hi),
    fun _ _ _ _ hp hcfg => exec_of_refusal hp (if_pos hcfg)⟩

/-- Settles O14: after construction the range of the line is the first test of format L. -/
theorem lineOutOfRangeIsRefused : Obligations.LineOutOfRangeIsRefused := by
  intro s line ⟨hc, hp⟩ hline
  refine ⟨?_, ?_, ?_⟩ <;> exact exec_of_refusal hp (by simp [firstRefusal, hc, hline])

theorem State.runPrepare_cause (s : State) : s.runPrepare.cause = .ok ∨ s.runPrepare.cause = .notReady :=
  prepareLoop_cause Config.pollMax (s.enter .prepare .preparing).startPolling

theorem State.runPulse_cause (s : State) : s.runPulse.cause = .ok ∨ s.runPulse.cause = .timingViolation :=
  (s.enter .pulse .pulsing).pulse_cause

theorem State.runWrgain_cause (s : State) : s.runWrgain.cause = .ok ∨ s.runWrgain.cause = .timingViolation :=
  wrgainLoop_cause _ _

theorem State.runRead_cause (s : State) :
    s.runRead.cause = .ok ∨ s.runRead.cause = .notReady ∨ s.runRead.cause = .timingViolation :=
  (s.enter .read .preparing).read_cause

theorem firstRefusal_construct {s : State} {dbg : Bool} {ch : Channel} {gain : GainCode}
    (h : firstRefusal s (.construct dbg ch gain) = none) : ∃ c, cfgOf ch gain = some c := by
  cases hcfg : cfgOf ch gain with
  | none => simp [firstRefusal, hcfg] at h
  | some c => exact ⟨c, rfl⟩

theorem firstRefusal_setcfg {s : State} {ch : Channel} {gain : GainCode}
    (h : firstRefusal s (.setcfg ch gain) = none) : ∃ c, cfgOf ch gain = some c := by
  cases hcfg : cfgOf ch gain with
  | none => simp [firstRefusal, hcfg] at h; split at h <;> cases h
  | some c => exact ⟨c, rfl⟩

/-- An instruction that meets no refusal ends with OK, NotReady or TimingViolation (60_exceptions.md R190). -/
theorem accepted_cause {i : Instr} {s : State} (h : firstRefusal s i = none) :
    (accepted i s).cause = .ok ∨ (accepted i s).cause = .notReady ∨ (accepted i s).cause = .timingViolation := by
  cases i with
  | construct dbg ch gain =>
    obtain ⟨c, hc⟩ := firstRefusal_construct h
    simp [accepted, hc, onlyResult]
  | setcfg ch gain =>
    obtain ⟨c, hc⟩ := firstRefusal_setcfg h
    simp [accepted, hc, onlyResult]
  | prepare => exact s.runPrepare_cause.imp_right .inl
  | pulse => exact s.runPulse_cause.imp_right .inr
  | wrgain => exact s.runWrgain_cause.imp_right .inr
  | read => exact s.runRead_cause
  | resett | sample | final | decode => exact .inl rfl

/-- Settles O15: `exec_idle` in its two cases. -/
theorem refusalsInTheOrderOfTheSpec : Obligations.RefusalsInTheOrderOfTheSpec :=
  fun i s hp => ⟨fun _ hr => exec_of_refusal hp hr, fun hr => ⟨accepted i s, exec_of_accept hp hr, accepted_cause hr⟩⟩

/-- Settles O29: a history of HDEPTH values makes READ's entry test fail. -/
theorem readRefusesAFullHistory : Obligations.ReadRefusesAFullHistory := by
  intro s d l ⟨hc, hp⟩ hd hl hlen
  have hfull : s.anyFull = true := List.any_eq_true.mpr ⟨l, hl, hlen ▸ Params.full_of_hdepth hd⟩
  exact exec_of_refusal hp (by simp [firstRefusal, hc, hfull])

/-! ### CONSTRUCT and SETCFG -/

/-- Settles O20: the eight pairs, one by one. -/
theorem validPairsAreThree : Obligations.ValidPairsAreThree := by
  refine ⟨fun ch gain => ?_, fun ch gain c h => ?_⟩
  · cases ch <;> cases gain <;> decide
  · cases ch <;> cases gain <;> cases h <;> exact ⟨rfl, rfl⟩

/-- Settles O19: the five pairs are those `cfgOf` gives no configuration. -/
theorem constructRefusesOtherPairs : Obligations.ConstructRefusesOtherPairs := by
  intro dbg ch gain s hp hpair
  have hnone : cfgOf ch gain = none := by
    by_contra hsome
    have := (validPairsAreThree.1 ch gain).mp (Option.isSome_iff_ne_none.mpr hsome)
    revert hpair this
    cases ch <;> cases gain <;> decide
  exact exec_of_refusal hp (if_pos hnone)

/-- Settles O23: the two refusals of SETCFG in their order, and its one write. -/
theorem setcfgWritesOnlyTheConfig : Obligations.SetcfgWritesOnlyTheConfig := by
  refine fun ch gain s hp => ⟨fun hc => exec_of_refusal hp (if_pos hc), fun hc hnone => ?_, fun hc c hsome => ?_⟩
  · exact exec_of_refusal hp (by simp [firstRefusal, hc, hnone])
  · rw [exec_of_accept hp (by simp [firstRefusal, hc, hsome]), accepted, hsome]

/-- The directions CONSTRUCT sets are events and nothing else (41_chgain_encoder.md R132). -/
theorem State.setDirections_eq (s : State) :
    s.setDirections =
      { s with
        trace := s.trace ++ [.dir .clk .output] ++ (List.range s.nlines).map fun i => .dir (.data i) .input } := by
  have key (n : Nat) (s : State) : (List.range n).foldl (fun s i => s.pinDir (.data i) .input) s =
      { s with trace := s.trace ++ (List.range n).map fun i => .dir (.data i) .input } := by
    induction n with
    | zero => simp
    | succ n ih => rw [List.range_succ, List.foldl_concat, ih]; simp [State.pinDir, State.emit]
  exact key _ _

theorem construct_nlines (s : State) (dbg : Bool) (c : Cfg) : (s.construct dbg c).nlines = s.nlines := by
  simp [State.construct, State.nlines, State.setDirections_eq]

theorem construct_lines_empty {s : State} {dbg : Bool} {c : Cfg} {l : Line} (h : l ∈ (s.construct dbg c).lines) :
    l.rawHist = [] ∧ l.signedHist = [] := by
  obtain ⟨i, -, rfl⟩ := List.mem_map.mp h
  exact ⟨rfl, rfl⟩

/-- CONSTRUCT, all of it but the lines (41_chgain_encoder.md R132). -/
theorem State.construct_eq (s : State) (dbg : Bool) (c : Cfg) :
    s.construct dbg c =
      { s with
        trace := s.trace ++ [.dir .clk .output] ++ (List.range s.nlines).map fun i => .dir (.data i) .input
        poll := (Config.freePoll s.fresh).val
        bit := (Config.freeBit s.fresh).val
        tp := (Config.freeTp s.fresh).val
        cfg := c
        dbg := dbg
        lines := (List.range s.nlines).map fun i => Line.constructed (s.fresh + i)
        constructed := true
        fresh := s.fresh + s.nlines + 1 } := by
  rw [State.construct, State.setDirections_eq]
  rfl

/-- Settles O18: `State.construct_eq`, and the lines of a new controller are empty. -/
theorem constructMakesAController : Obligations.ConstructMakesAController := by
  intro dbg ch gain c s hp hcfg
  refine ⟨onlyResult (s.construct dbg c) .ok, ?_, ?_⟩
  · rw [exec_of_accept hp (by simp [firstRefusal, hcfg]), accepted, hcfg]
  · refine ⟨rfl, rfl, rfl, construct_nlines s dbg c, fun l hl => construct_lines_empty (dbg := dbg) (c := c) hl, ?_⟩
    rw [State.construct_eq]
    exact ⟨rfl, rfl, rfl, rfl, hp, rfl, rfl, rfl, rfl, rfl, rfl, rfl⟩

/-! ### The command port -/

theorem step_idle_nil {s : State} (hp : s.phase = .idle) (h : s.port = []) : step s = .next s := by
  simp [step, hp, h]

theorem step_idle_cons {s : State} {p : Presented} {rest : List Presented} (hp : s.phase = .idle)
    (h : s.port = p :: rest) : step s = acceptWord p.word { s with port := rest } := by
  simp [step, hp, h]

theorem acceptWord_illegal {w : Word} {why : IllegalWord} (h : decode w = .illegal why) (s : State) :
    acceptWord w s = .next (onlyResult s .illegalCommand) := by
  simp [acceptWord, h, State.refuse_eq]

theorem acceptWord_legal {w : Word} {i : Instr} (h : decode w = .legal i) (s : State) :
    acceptWord w s = if s.nextIsEarly then start i s else exec i s := by
  simp [acceptWord, h]

/-- Settles O8: the word is accepted as `acceptWord_legal` says. -/
theorem stepRunsTheDecodedInstruction : Obligations.StepRunsTheDecodedInstruction := by
  refine fun s hp => ⟨step_idle_nil hp, fun p rest i hport hdec => ?_⟩
  rw [step_idle_cons hp hport, acceptWord_legal hdec]
  exact ⟨fun h => if_neg (by simp [h]), fun h => if_pos h⟩

/-- Settles O10: `acceptWord_illegal` on the state without the word. -/
theorem illegalWordOnlySetsTheResult : Obligations.IllegalWordOnlySetsTheResult := by
  intro s p rest why hp hport hdec
  rw [step_idle_cons hp hport, acceptWord_illegal hdec]

/-- With no word due a step in progress is a turn (log 10). -/
theorem progress_of_not_early {s : State} (h : s.nextIsEarly = false) : s.progress = advance s := by
  unfold State.progress
  unfold State.nextIsEarly at h
  split
  · rfl
  · next p rest hport =>
    have harr : p.arrival = .whenIdle := by simpa [hport] using h
    rw [harr]

/-- Settles O9: the three cases of `State.progress`. -/
theorem stepInProgressAdvances : Obligations.StepInProgressAdvances := by
  refine fun s hp => ⟨fun h => ?_, fun w rest hport => ?_, fun w n rest hport => ?_⟩
  · rw [step_not_idle hp, progress_of_not_early h]
  · rw [step_not_idle hp, State.progress, hport]
    rfl
  · rw [step_not_idle hp, State.progress, hport]

/-- Settles O17: neither `exec` nor `start` ever faults or is refused. -/
theorem stepAlwaysGoesOn : Obligations.StepAlwaysGoesOn := by
  intro s
  by_cases hp : s.phase = .idle
  case neg => exact ⟨_, step_not_idle hp⟩
  cases hport : s.port with
  | nil => exact ⟨s, step_idle_nil hp hport⟩
  | cons p rest =>
    rw [step_idle_cons hp hport]
    cases hdec : decode p.word with
    | illegal why => exact ⟨_, acceptWord_illegal hdec _⟩
    | legal i =>
      rw [acceptWord_legal hdec]
      split
      · exact ⟨_, start_idle i hp⟩
      · exact ⟨_, exec_idle i hp⟩

/-- Everything a step can do: a step of the operation in progress, nothing, a refused word, or an instruction performed or begun
on the state without its word. -/
theorem step_next {s t : State} (h : step s = .next t) :
    (s.phase ≠ .idle ∧ t = s.progress) ∨ t = s ∨
      ∃ p rest, s.phase = .idle ∧ s.port = p :: rest ∧
        (t = onlyResult { s with port := rest } .illegalCommand ∨
          ∃ i, decode p.word = .legal i ∧
            (exec i { s with port := rest } = .next t ∨ start i { s with port := rest } = .next t)) := by
  by_cases hp : s.phase = .idle
  case neg => exact .inl ⟨hp, Host.Outcome.next.inj (h.symm.trans (step_not_idle hp))⟩
  cases hport : s.port with
  | nil => exact .inr (.inl (Host.Outcome.next.inj (h.symm.trans (step_idle_nil hp hport))))
  | cons p rest =>
    refine .inr (.inr ⟨p, rest, hp, rfl, ?_⟩)
    rw [step_idle_cons hp hport] at h
    cases hdec : decode p.word with
    | illegal why => exact .inl (Host.Outcome.next.inj (h.symm.trans (acceptWord_illegal hdec _)))
    | legal i =>
      rw [acceptWord_legal hdec] at h
      split at h
      · exact .inr ⟨i, rfl, .inr h⟩
      · exact .inr ⟨i, rfl, .inl h⟩

/-! ### The result word and the host's reads -/

/-- Bit `k` of the result word, field by field (30_encoding.md R77). -/
theorem State.resultWord_getLsbD (s : State) (k : Nat) :
    s.resultWord.getLsbD k =
      if k < 24 then s.res.value.getLsbD k
      else if k < 25 then s.res.valid
      else if k < 28 then false
      else if k < 31 then s.cause.code.getLsbD (k - 28)
      else decide (k = 31) && s.ok := by
  simp only [State.resultWord, Answer.word, BitVec.getLsbD_append, BitVec.getLsbD_zero, BitVec.getLsbD_ofBool]
  have h1 : k - 24 < 1 ↔ k < 25 := by omega
  have h3 : k - 24 - 1 < 3 ↔ k < 28 := by omega
  have hsub : k - 24 - 1 - 3 = k - 28 := by omega
  simp only [h1, h3, hsub]
  split
  · rfl
  split
  · next hlo hhi => simp [show k = 24 by omega]
  split
  · rfl
  next hge =>
  have h6 : k - 28 < 3 ↔ k < 31 := by omega
  simp only [h6]
  split
  · rfl
  · next hk => simp [show k - 28 - 3 = 0 ↔ k = 31 by omega]

/-- Settles O7: the fields read back bit by bit, and the codes are those of `Cause.code`. -/
theorem resultWordLayout : Obligations.ResultWordLayout := by
  refine ⟨fun s => ⟨?_, ?_, ?_, ?_, ?_⟩, rfl, rfl, rfl, rfl, rfl, rfl, rfl, rfl⟩
  · simpa using s.resultWord_getLsbD 31
  · apply BitVec.eq_of_getLsbD_eq
    intro k hk
    have h24 : ¬ 28 + k < 24 := by omega
    have h25 : ¬ 28 + k < 25 := by omega
    have h31 : 28 + k < 31 := by omega
    simp [State.resultWord_getLsbD, hk, h24, h25, h31]
  · apply BitVec.eq_of_getLsbD_eq
    intro k hk
    have h24 : ¬ 25 + k < 24 := by omega
    have h28 : 25 + k < 28 := by omega
    simp [State.resultWord_getLsbD, h24, h28]
  · simpa using s.resultWord_getLsbD 24
  · apply BitVec.eq_of_getLsbD_eq
    intro k hk
    simp [State.resultWord_getLsbD, hk]

/-- Settles O58: the readers give values exactly in a constructed block in Idle, and then read the lists of the line. -/
theorem hostReadsHistoriesInIdle : Obligations.HostReadsHistoriesInIdle := by
  have closed {s : State} {i : Nat} (h : s.hostReadable = false) :
      s.hostLength i = none ∧ ∀ k, s.hostRaw i k = none ∧ s.hostSigned i k = none := by
    simp [State.hostLength, State.hostRaw, State.hostSigned, h]
  refine fun s i => ⟨fun hs l hl => ?_, fun hc => closed (State.hostReadable_notConstructed hc),
    fun hp => closed (State.hostReadable_busy hp)⟩
  have hopen := State.hostReadable_ready hs
  simp only [State.hostLength, State.hostRaw, State.hostSigned, hopen, State.rawAt, State.signedAt, hl, if_true,
    Option.map_some, Option.bind_some, true_and]
  exact ⟨fun k h => List.getElem?_eq_getElem h, fun k h => List.getElem?_eq_getElem h,
    fun k h => List.getElem?_eq_none h, fun k h => List.getElem?_eq_none h⟩

/-! ### Power-on -/

/-- Settles O49: the registers `State.powerOn` writes. -/
theorem powerOnState : Obligations.PowerOnState :=
  ⟨fun _ _ => ⟨rfl, rfl, rfl, rfl, List.length_replicate⟩, rfl, rfl, rfl, rfl⟩

theorem inv_powerOn (p : Params) {n : Nat} (h1 : 1 ≤ n) (h2 : n ≤ 2 ^ 24) : Inv (State.powerOn p n) := by
  have hlines : ∀ l ∈ (State.powerOn p n).lines, l = Line.powerOn := fun l hl => List.eq_of_mem_replicate hl
  have hn : (State.powerOn p n).nlines = n := List.length_replicate
  exact {
    lines_pos := h1.trans_eq hn.symm
    lines_le := hn.trans_le h2
    aligned := fun l hl => by rw [hlines l hl]; rfl
    depth := fun d _ l hl => by rw [hlines l hl]; exact Nat.zero_le d
    poll_le := Nat.zero_le _
    bit_le := Nat.zero_le _
    tp_le := Nat.zero_le _
    fits := rfl
    built := fun h => absurd rfl h
    result := rfl
    clock := fun _ => rfl
    shaped := rfl }

/-- Settles O50: `inv_powerOn`, of which the reset state is the case of two lines. -/
theorem powerOnMeetsTheInvariant : Obligations.PowerOnMeetsTheInvariant :=
  ⟨fun p _ h1 h2 => inv_powerOn p h1 h2, inv_powerOn Params.default (by decide) (by decide)⟩

end Sys2Proof.Machine
end

section
/-! SAMPLE's arithmetic, FINAL after RESETT, and DECODE as sign extension (42_accumulator.md R152 to R154, 43_decoder.md R170 to
R174). -/

namespace Sys2Proof.Machine

theorem levelBit_toNat (b : Level) : (levelBit b).toNat = if b = .high then 1 else 0 := by
  cases b <;> rfl

/-- One shift doubles the accumulator and adds the bit, modulo `2 ^ 24` (42_accumulator.md R152). -/
theorem shiftIn_eq (acc : Raw) (b : Level) : shiftIn acc b = BitVec.ofNat 24 (2 * acc.toNat + (levelBit b).toNat) := by
  rw [← shiftIn_ofNat, BitVec.ofNat_toNat, BitVec.setWidth_eq]

theorem exec_sample_ready {s : State} {i : Nat} (h : Ready s) (hi : i < s.nlines) :
    exec (.sample i) s = .next (onlyResult (s.sample i) .ok) := by
  rw [exec, execSample, State.acceptLine_ready h hi, State.complete_eq]

/-- Settles O41: SAMPLE reads once and shifts its one line, and `shiftIn_eq` is the arithmetic of the shift. -/
theorem sampleShiftsOneBitIn : Obligations.SampleShiftsOneBitIn := by
  intro s i l b hs hl hb
  have hacc : shiftIn l.acc (s.env.level 0) = BitVec.ofNat 24 ((2 * l.acc.toNat + b) % 2 ^ 24) := by
    rw [shiftIn_eq, levelBit_toNat, ← hb]
    apply BitVec.eq_of_toNat_eq
    simp
  rw [exec_sample_ready hs (State.lt_nlines hl), State.sample, State.setLine, State.pinRead_eq]
  dsimp only
  rw [modify_eq_set_of_getElem? hl, hacc]

/-- Settles O43: after RESETT the line of FINAL holds 0, whose decode is 0, and both go to the end of the histories. -/
theorem resettThenFinalAppendsZero : Obligations.ResettThenFinalAppendsZero := by
  intro s i l hs hl hfull
  have hlt := State.lt_nlines hl
  have hset : (s.lines.set i { l with acc := 0#24 })[i]? = some { l with acc := 0#24 } := List.getElem?_set_self hlt
  rw [State.lineFull_eq hl] at hfull
  refine ⟨_, _, (resettZeroesOneAccumulator s i).2.2.2 hs l hl, exec_final_ready hs hset, ?_⟩
  have hroom : (onlyResult { s with lines := s.lines.set i { l with acc := 0#24 } } .ok).params.full l.rawHist.length =
    false := hfull
  rw [if_neg (by simp [hroom]), State.final_eq _ i { l with acc := 0#24 } hset hroom]
  simp [State.rawAt, State.signedAt, onlyResult, hset, Line.append, decodeRaw_eq_toInt]

theorem bitsValue_lt (bs : List Level) : bitsValue bs < 2 ^ bs.length := by
  induction bs with
  | nil => decide
  | cons b bs ih =>
    have hb : (levelBit b).toNat ≤ 1 := by cases b <;> decide
    have := Nat.mul_le_mul_right (2 ^ bs.length) hb
    simp only [bitsValue, List.length_cons, Nat.pow_succ]
    omega

/-- Shifting bits into a number appends them to its binary expansion, modulo `2 ^ 24` (42_accumulator.md R152). -/
theorem foldl_shiftIn (bs : List Level) (v : Nat) :
    bs.foldl shiftIn (BitVec.ofNat 24 v) = BitVec.ofNat 24 (v * 2 ^ bs.length + bitsValue bs) := by
  induction bs generalizing v with
  | nil => simp [bitsValue]
  | cons b bs ih =>
    rw [List.foldl_cons, shiftIn_ofNat, ih, bitsValue, List.length_cons]
    congr 1
    ring

/-- Settles O44: `foldl_shiftIn` from 0, with no truncation as the number has at most 24 bits. -/
theorem shiftingFromZeroSpellsTheBits : Obligations.ShiftingFromZeroSpellsTheBits := by
  intro bs hlen
  have hlt := bitsValue_lt bs
  refine ⟨?_, hlt⟩
  have hbound : bitsValue bs < 2 ^ 24 := hlt.trans_le (Nat.pow_le_pow_right (by decide) hlen)
  rw [foldl_shiftIn bs 0, Nat.zero_mul, Nat.zero_add, BitVec.toNat_ofNat, Nat.mod_eq_of_lt hbound]

/-! ### DECODE -/

/-- Settles O45: two's complement by the value of the raw word (43_decoder.md R173). -/
theorem decodeIsSignExtension : Obligations.DecodeIsSignExtension := by
  intro raw
  have hlt := raw.isLt
  rw [decodeRaw_eq_toInt, BitVec.toInt_eq_toNat_cond]
  congr 1
  split <;> split <;> omega

theorem decodeRaw_res (raw : Raw) : (decodeRaw raw).res = { valid := true, value := raw } := by
  rw [decodeRaw_eq_toInt, SignedEntry.res, BitVec.ofInt_toInt]

/-- Settles O46: each clause is one of `BitVec.toInt`, the two halves by `decodeIsSignExtension`. -/
theorem decodeIsABijection : Obligations.DecodeIsABijection := by
  refine ⟨fun raw raw' h => ?_, fun raw => ⟨raw.toInt, decodeRaw_eq_toInt raw, ?_, ?_, ?_⟩, fun v hlo hhi => ?_,
    decodeRaw_res, fun raw raw' v v' hv hv' => ?_⟩
  · rw [decodeRaw_eq_toInt, decodeRaw_eq_toInt] at h
    exact BitVec.eq_of_toInt_eq (SignedEntry.int.inj h)
  · exact BitVec.le_toInt raw
  · exact Int.le_of_lt_add_one BitVec.toInt_lt
  · have := raw.isLt
    rw [BitVec.toInt_eq_toNat_cond]
    split <;> omega
  · rw [decodeRaw_eq_toInt, BitVec.toInt_ofInt_eq_self (by decide) hlo (by omega)]
  · rw [decodeIsSignExtension] at hv hv'
    cases hv
    cases hv'
    have := raw.isLt
    have := raw'.isLt
    split <;> split <;> omega

/-- The result word of a success with a valid `res` is `0x81000000` OR its value (30_encoding.md R77). -/
theorem State.resultWord_success {s : State} (hok : s.ok = true) (hcause : s.cause = .ok) (hvalid : s.res.valid = true) :
    s.resultWord = 0x81000000#32 ||| s.res.value.setWidth 32 := by
  apply BitVec.eq_of_getLsbD_eq
  intro k hk
  have hconst : (0x81000000#32).getLsbD k = decide (k = 24 ∨ k = 31) := by
    have : ∀ j : Fin 32, (0x81000000#32).getLsbD j.val = decide (j.val = 24 ∨ j.val = 31) := by decide
    exact this ⟨k, hk⟩
  rw [State.resultWord_getLsbD, BitVec.getLsbD_or, BitVec.getLsbD_setWidth, hconst]
  by_cases hlow : k < 24
  · have h24 : k ≠ 24 := by omega
    have h31 : k ≠ 31 := by omega
    simp [hlow, hk, h24, h31]
  · have htop : s.res.value.getLsbD k = false := BitVec.getLsbD_of_ge _ _ (by omega)
    rw [hok, hcause, hvalid, htop]
    interval_cases k <;> simp [Cause.code]

/-- Settles O47: the word by `assemble_eq_or`, the formula as no raw is out of range, and the command by `exec_idle`. -/
theorem decodeWritesOnlyTheResult : Obligations.DecodeWritesOnlyTheResult := by
  refine fun raw => ⟨assemble_eq_or 0xB raw, ?_, fun s => ⟨fun hp hc => exec_of_refusal hp (if_pos hc), fun hs => ⟨?_, ?_⟩⟩⟩
  · rw [decodeRaw, rangeInvalid_eq_false, apply_ite SignedEntry.int]
    rfl
  · rw [exec_of_accept hs.2 (by simp [firstRefusal, hs.1]), accepted, decodeRaw_res]
  · exact State.resultWord_success rfl rfl rfl

end Sys2Proof.Machine
end

section
/-! PREPARE, WRGAIN and READ as commands, one statement per exit (40_sequencer.md R100, R105, 41_chgain_encoder.md R134). -/

namespace Sys2Proof.Machine

theorem exec_prepare_ready {s : State} (h : Ready s) : exec .prepare s = .next s.runPrepare := by
  rw [exec, execPrepare, State.accept_ready h]

theorem exec_wrgain_ready {s : State} (h : Ready s) : exec .wrgain s = .next s.runWrgain := by
  rw [exec, execWrgain, State.accept_ready h]

theorem exec_read_ready {s : State} (h : Ready s) (hfull : s.anyFull = false) : exec .read s = .next s.runRead := by
  rw [exec, execRead, State.accept_ready h, hfull]
  rfl

/-! ### WRGAIN -/

/-- Settles O24: `State.wrgain_all`, then the end of the operation. -/
theorem wrgainEmitsAllItsPulses : Obligations.WrgainEmitsAllItsPulses := by
  intro s hs hpass
  refine ⟨_, exec_wrgain_ready hs, ?_⟩
  rw [State.runWrgain, State.wrgain_all (s.enter .wrgain .settingGain) hpass]
  exact ⟨State.endOperation_endsWith _ rfl rfl, ⟨rfl, rfl, rfl, rfl, rfl⟩, rfl, rfl, rfl, rfl, rfl⟩

/-- Settles O25: `State.wrgain_slow`, then the end of the operation. -/
theorem wrgainStopsAtTheFirstSlowPulse : Obligations.WrgainStopsAtTheFirstSlowPulse := by
  intro s k hs hk hpass hslow
  refine ⟨_, exec_wrgain_ready hs, ?_⟩
  rw [State.runWrgain, State.wrgain_slow (s.enter .wrgain .settingGain) k hk hslow hpass]
  exact ⟨State.endOperation_endsWith _ rfl rfl, ⟨rfl, rfl, rfl, rfl, rfl⟩, rfl, rfl, rfl, rfl, rfl⟩

/-! ### PREPARE -/

/-- Settles O27: `State.prepare_ready`, then the end of the operation. -/
theorem prepareSucceedsAtTheFirstReadyPoll : Obligations.PrepareSucceedsAtTheFirstReadyPoll := by
  intro s q hs hq hfailed hready
  refine ⟨_, exec_prepare_ready hs, ?_⟩
  rw [State.runPrepare, State.prepare_ready (s.enter .prepare .preparing) q hq hfailed hready]
  exact ⟨State.endOperation_endsWith _ rfl rfl, ⟨rfl, rfl, rfl, rfl, rfl⟩, rfl, rfl, rfl, rfl, rfl⟩

/-- Settles O28: `State.prepare_exhausted`, then the end of the operation. -/
theorem prepareFailsAfterTwentyPolls : Obligations.PrepareFailsAfterTwentyPolls := by
  intro s hs hfailed
  refine ⟨_, exec_prepare_ready hs, ?_⟩
  rw [State.runPrepare, State.prepare_exhausted (s.enter .prepare .preparing) hfailed]
  exact ⟨State.endOperation_endsWith _ rfl rfl, ⟨rfl, rfl, rfl, rfl, rfl⟩, rfl, rfl, rfl, rfl, rfl⟩

/-! ### READ -/

/-- Settles O30: the READ that is never ready is its PREPARE. -/
theorem readEndsWhenNeverReady : Obligations.ReadEndsWhenNeverReady := by
  intro s hs hfull hfailed
  refine ⟨_, exec_read_ready hs hfull, ?_⟩
  rw [State.runRead, State.read_notReady (s.enter .read .preparing) hfailed,
    State.prepare_exhausted (s.enter .read .preparing) hfailed]
  exact ⟨State.endOperation_endsWith _ rfl rfl, ⟨rfl, rfl, rfl, rfl, rfl⟩, rfl, rfl, rfl, rfl, rfl⟩

/-- Settles O31: `State.read_slowData`, then the end of the operation. -/
theorem readAbandonsTheCycleAtASlowDataPulse : Obligations.ReadAbandonsTheCycleAtASlowDataPulse := by
  intro s q k hs hfull hq hfailed hready hk hpass hslow
  refine ⟨_, exec_read_ready hs hfull, ?_⟩
  rw [State.runRead, State.read_slowData (s.enter .read .preparing) q k hq hfailed hready hk hpass hslow]
  exact ⟨State.endOperation_endsWith _ rfl rfl, ⟨rfl, rfl, rfl, rfl, rfl⟩, rfl, rfl, rfl, rfl, rfl⟩

/-- The lines READ leaves after Finalizing: the 24 sampled bits in the accumulator, and they and their two's-complement value
at the end of the histories (40_sequencer.md R104, R108). -/
theorem sampledLines_append (s : State) (base : Nat) :
    ((sampledLines s base 24).map fun l => l.append l.acc (decodeRaw l.acc)) =
      s.lines.mapIdx fun i l =>
        { l with
          acc := sampledRaw s.env s.nlines base i 24
          rawHist := l.rawHist ++ [sampledRaw s.env s.nlines base i 24]
          signedHist := l.signedHist ++ [.int (sampledRaw s.env s.nlines base i 24).toInt] } := by
  apply List.ext_getElem?
  intro i
  simp [sampledLines, List.getElem?_mapIdx, Function.comp_def, Line.append, decodeRaw_eq_toInt]

/-- Settles O32: `State.read_sampled` and the trailing pulses up to the slow one. -/
theorem readKeepsTheEntriesWhenATrailingPulseIsSlow : Obligations.ReadKeepsTheEntriesWhenATrailingPulseIsSlow := by
  intro s q j hs hfull hq hfailed hready hj hpass hslow
  refine ⟨_, exec_read_ready hs hfull, ?_⟩
  rw [State.runRead, State.read_sampled (s.enter .read .preparing) q hfull hq hfailed hready fun m hm => hpass m (by omega)]
  rw [State.wrgain_slow (afterFinalizing (s.enter .read .preparing) q) j hj (by simpa [afterFinalizing] using hslow)
    fun m hm => by simpa [afterFinalizing] using hpass (24 + m) (by omega)]
  refine ⟨State.endOperation_endsWith _ rfl rfl, ⟨rfl, rfl, rfl, rfl, rfl⟩, rfl, ?_, ?_, ?_, ?_⟩
  · simp [afterFinalizing, barePulses_skip, State.nlines]
  · exact sampledLines_append s _
  · simp [afterFinalizing, State.nlines, Nat.add_assoc]
  · cases hdbg : s.dbg <;> simp [afterFinalizing, diagAfter, hdbg, State.nlines]

/-- Settles O33: `State.read_sampled` and all trailing pulses. -/
theorem readAppendsOneSamplePerLine : Obligations.ReadAppendsOneSamplePerLine := by
  intro s q hs hfull hq hfailed hready hpass
  refine ⟨_, exec_read_ready hs hfull, ?_⟩
  rw [State.runRead, State.read_sampled (s.enter .read .preparing) q hfull hq hfailed hready fun m hm => hpass m (by omega)]
  rw [State.wrgain_all (afterFinalizing (s.enter .read .preparing) q)
    fun m hm => by simpa [afterFinalizing] using hpass (24 + m) (Nat.add_lt_add_left hm 24)]
  refine ⟨State.endOperation_endsWith _ rfl rfl, ⟨rfl, rfl, rfl, rfl, rfl⟩, rfl, ?_, ?_, ?_, ?_⟩
  · simp [afterFinalizing, barePulses_skip, State.nlines]
  · exact sampledLines_append s _
  · simp [afterFinalizing, State.nlines, Nat.add_assoc]
  · rfl

end Sys2Proof.Machine
end

section
/-! What an operation can do to the block between its acceptance and its end, as a chain of small moves: every frame and every
invariant below is proved of one move and holds of the whole operation (40_sequencer.md R104, R110). -/

namespace Sys2Proof.Machine

/-- One move of an operation in progress: its position among the phases, a pin access with what follows from it, or the work of
one line. None writes the configuration, the result registers, the answers or the port. -/
inductive Move : State → State → Prop
  | position (s : State) (phase : Phase) (running : Option Running) (poll bit tp : Nat) :
    Move s { s with phase := phase, running := running, poll := poll, bit := bit, tp := tp }
  | clockLow (s : State) : Move s (s.pinWrite .low)
  | pollLines (s : State) : Move s s.pollLines.2
  | wait (s : State) : Move s s.wait
  | pulse (s : State) : Move s s.pulse.2
  | resett (s : State) (i : Nat) : Move s (s.resett i)
  | sample (s : State) (i : Nat) : Move s (s.sample i)
  | final (s : State) (i : Nat) : Move s (s.final i)

/-- Any number of moves. -/
abbrev Moves : State → State → Prop := Relation.ReflTransGen Move

theorem Move.moves {s t : State} (h : Move s t) : Moves s t := .single h

/-- Moves that end in a change of position. -/
theorem Moves.position {s u : State} (h : Moves s u) (phase : Phase) (running : Option Running) (poll bit tp : Nat) :
    Moves s { u with phase := phase, running := running, poll := poll, bit := bit, tp := tp } :=
  h.tail (.position u phase running poll bit tp)

/-! ### The subroutines are moves -/

theorem State.eachLine_moves {f : State → Nat → State} (h : ∀ s i, Move s (f s i)) (s : State) :
    Moves s (s.eachLine f) := by
  unfold State.eachLine
  induction List.range s.nlines generalizing s with
  | nil => exact .refl
  | cons i is ih => exact .head (h s i) (ih (f s i))

theorem State.pollOnce_moves (s : State) : Moves s s.pollOnce.2 :=
  (Move.pollLines s).moves.position _ _ _ _ _

theorem State.startPolling_moves (s : State) : Moves s s.startPolling :=
  (Move.clockLow s).moves.position _ _ _ _ _

theorem prepareLoop_moves (n : Nat) (s : State) : Moves s (prepareLoop n s).2 := by
  induction n generalizing s with
  | zero => exact .refl
  | succ n ih =>
    rw [prepareLoop]
    split
    · exact s.pollOnce_moves
    · exact (s.pollOnce_moves.tail (.wait _)).trans (ih _)

theorem State.prepare_moves (s : State) : Moves s s.prepare.2 :=
  s.startPolling_moves.trans (prepareLoop_moves _ _)

theorem State.pulse_moves {s u : State} {c : Cause} (h : s.pulse = (c, u)) : Moves s u := by
  have hm := Move.pulse s
  rw [h] at hm
  exact hm.moves

theorem wrgainLoop_moves (n : Nat) (s : State) : Moves s (wrgainLoop n s).2 := by
  induction n generalizing s with
  | zero => exact .refl
  | succ n ih =>
    rw [wrgainLoop]
    split
    · next u h => exact ((State.pulse_moves h).position _ _ _ _ _).trans (ih _)
    · next c u _ h => exact State.pulse_moves h

theorem State.wrgain_moves (s : State) : Moves s s.wrgain.2 :=
  (Moves.position .refl _ _ _ _ _).trans (wrgainLoop_moves _ _)

theorem State.goto_moves (s : State) (p : Phase) : Moves s (s.goto p) := Moves.position .refl _ _ _ _ _

theorem State.startSampling_moves (s : State) : Moves s s.startSampling :=
  Moves.position ((s.goto_moves .sampling).trans (State.eachLine_moves .resett _)) _ _ _ _ _

theorem State.sampleLines_moves (s : State) : Moves s s.sampleLines :=
  (State.eachLine_moves .sample s).position _ _ _ _ _

theorem State.finalizeLines_moves (s : State) : Moves s s.finalizeLines :=
  (s.goto_moves .finalizing).trans (State.eachLine_moves .final _)

theorem dataLoop_moves (n : Nat) (s : State) : Moves s (dataLoop n s).2 := by
  induction n generalizing s with
  | zero => exact .refl
  | succ n ih =>
    rw [dataLoop]
    split
    · next u h => exact ((State.pulse_moves h).trans u.sampleLines_moves).trans (ih _)
    · next c u _ h => exact State.pulse_moves h

theorem State.read_moves (s : State) : Moves s s.read.2 := by
  have hprep := s.prepare_moves
  unfold State.read
  split
  · next u h =>
    rw [h] at hprep
    have hdata := dataLoop_moves Config.dataBits u.startSampling
    replace hprep := hprep.trans u.startSampling_moves
    split
    · next v hv =>
      rw [hv] at hdata
      exact (((hprep.trans hdata).trans v.finalizeLines_moves).trans (State.goto_moves _ _)).trans (State.wrgain_moves _)
    · next c v _ hv =>
      rw [hv] at hdata
      exact hprep.trans hdata
  · next c u _ h => rwa [h] at hprep

theorem State.enter_moves (s : State) (r : Running) (p : Phase) : Moves s (s.enter r p) := Moves.position .refl _ _ _ _ _

/-! ### What no move writes -/

/-- What every move leaves as it was; the histories, the accumulators, the clock, the draws, the trace and the diagnostics are
those it may change. -/
structure Frame (s t : State) : Prop where
  constructed : t.constructed = s.constructed
  cfg : t.cfg = s.cfg
  dbg : t.dbg = s.dbg
  params : t.params = s.params
  port : t.port = s.port
  res : t.res = s.res
  ok : t.ok = s.ok
  cause : t.cause = s.cause
  answers : t.answers = s.answers
  fresh : t.fresh = s.fresh
  nlines : t.nlines = s.nlines
  offset : t.lines.map Line.offset = s.lines.map Line.offset
  ratio : t.lines.map Line.ratio = s.lines.map Line.ratio

theorem Frame.refl (s : State) : Frame s s := ⟨rfl, rfl, rfl, rfl, rfl, rfl, rfl, rfl, rfl, rfl, rfl, rfl, rfl⟩

theorem Frame.trans {s t u : State} (h : Frame s t) (h' : Frame t u) : Frame s u where
  constructed := h'.constructed.trans h.constructed
  cfg := h'.cfg.trans h.cfg
  dbg := h'.dbg.trans h.dbg
  params := h'.params.trans h.params
  port := h'.port.trans h.port
  res := h'.res.trans h.res
  ok := h'.ok.trans h.ok
  cause := h'.cause.trans h.cause
  answers := h'.answers.trans h.answers
  fresh := h'.fresh.trans h.fresh
  nlines := h'.nlines.trans h.nlines
  offset := h'.offset.trans h.offset
  ratio := h'.ratio.trans h.ratio

theorem map_modify_eq {α β : Type} {f : α → α} {g : α → β} (h : ∀ x, g (f x) = g x) (ls : List α) (i : Nat) :
    (ls.modify i f).map g = ls.map g := by
  apply List.ext_getElem?
  intro k
  by_cases hk : i = k
  · simp [hk, Function.comp_def, h]
  · simp [hk]

/-- Work on one line that leaves its calibration alone, with what a line operation changes beside the lines. -/
theorem Frame.of_modify {s : State} (i : Nat) {f : Line → Line} (hoffset : ∀ l, (f l).offset = l.offset)
    (hratio : ∀ l, (f l).ratio = l.ratio) (env : Draws) (trace : List Event) (diag : List Diag) :
    Frame s { s with lines := s.lines.modify i f, env := env, trace := trace, diag := diag } where
  constructed := rfl
  cfg := rfl
  dbg := rfl
  params := rfl
  port := rfl
  res := rfl
  ok := rfl
  cause := rfl
  answers := rfl
  fresh := rfl
  nlines := List.length_modify _ _ _
  offset := map_modify_eq hoffset _ _
  ratio := map_modify_eq hratio _ _

/-- FINAL as READ calls it, on any line: nothing, or one append to the histories of a line that exists and is not full
(42_accumulator.md R153, 20_memory.md R57). -/
theorem State.final_cases (s : State) (i : Nat) :
    s.final i = s ∨ ∃ l, s.lines[i]? = some l ∧ s.params.full l.rawHist.length = false ∧
      s.final i =
        { s with
          lines := s.lines.modify i fun l => l.append l.acc (decodeRaw l.acc)
          diag := diagAfter s [.values i l.acc (decodeRaw l.acc)] } := by
  cases hl : s.lines[i]? with
  | none => exact .inl (by simp [State.final, hl])
  | some l =>
    cases hf : s.params.full l.rawHist.length with
    | true => exact .inl (by simp [State.final, hl, hf])
    | false => exact .inr ⟨l, rfl, hf, State.final_eq s i l hl hf⟩

theorem State.pollLines_eq (s : State) :
    s.pollLines =
      (decide (∀ i < s.nlines, s.env.level i = .low),
        { s with env := s.env.skip s.nlines 0, trace := s.trace ++ readEvents s.env s.nlines 0 }) := by
  rw [State.pollLines, pollFold_eq]

theorem Move.frame {s t : State} (h : Move s t) : Frame s t := by
  cases h with
  | position | clockLow | wait => exact ⟨rfl, rfl, rfl, rfl, rfl, rfl, rfl, rfl, rfl, rfl, rfl, rfl, rfl⟩
  | pollLines =>
    rw [State.pollLines_eq]
    exact ⟨rfl, rfl, rfl, rfl, rfl, rfl, rfl, rfl, rfl, rfl, rfl, rfl, rfl⟩
  | pulse =>
    rw [State.pulse_eq]
    exact ⟨rfl, rfl, rfl, rfl, rfl, rfl, rfl, rfl, rfl, rfl, rfl, rfl, rfl⟩
  | resett i =>
    exact Frame.of_modify (s := s) i (f := fun l => { l with acc := 0 }) (fun _ => rfl) (fun _ => rfl) s.env s.trace s.diag
  | sample i =>
    exact Frame.of_modify i (f := fun l => { l with acc := shiftIn l.acc (s.env.level 0) }) (fun _ => rfl) (fun _ => rfl) _ _
      s.diag
  | final i =>
    rcases s.final_cases i with h | ⟨l, -, -, h⟩ <;> rw [h]
    · exact Frame.refl s
    · exact Frame.of_modify i (f := fun l => l.append l.acc (decodeRaw l.acc)) (fun _ => rfl) (fun _ => rfl) s.env s.trace _

theorem Moves.frame {s t : State} (h : Moves s t) : Frame s t := by
  induction h with
  | refl => exact Frame.refl s
  | tail _ hm ih => exact ih.trans hm.frame

end Sys2Proof.Machine
end

section
/-! What an instruction, a beginning and a turn can do, each as one inversion lemma (60_exceptions.md R196 to R198,
40_sequencer.md R110). -/

namespace Sys2Proof.Machine

/-- What an accepted instruction writes before the result registers: CONSTRUCT, SETCFG and DECODE their registers, and every
instruction what its moves change. -/
inductive Writes : Instr → State → State → Prop
  | construct {dbg : Bool} {ch : Channel} {gain : GainCode} {c : Cfg} (s : State) (h : cfgOf ch gain = some c) :
    Writes (.construct dbg ch gain) s (s.construct dbg c)
  | setcfg {ch : Channel} {gain : GainCode} (s : State) (c : Cfg) : Writes (.setcfg ch gain) s { s with cfg := c }
  | decode (raw : Raw) (s : State) (r : Res) : Writes (.decode raw) s { s with res := r }
  | moves {i : Instr} {s u : State} (h : Moves s u) : Writes i s u

/-- How an instruction ends: with the result registers alone, or as an operation that returns to Idle (60_exceptions.md R198). -/
inductive EndsFrom (u : State) : State → Prop
  | inIdle (c : Cause) (h : u.phase = .idle) : EndsFrom u (onlyResult u c)
  | toIdle (c : Cause) : EndsFrom u (u.endOperation c)

theorem accepted_cases {i : Instr} {s : State} (hp : s.phase = .idle) (h : firstRefusal s i = none) :
    ∃ u, Writes i s u ∧ EndsFrom u (accepted i s) := by
  cases i with
  | construct dbg ch gain =>
    obtain ⟨c, hc⟩ := firstRefusal_construct h
    refine ⟨s.construct dbg c, .construct s hc, ?_⟩
    rw [accepted, hc]
    exact .inIdle _ ((congrArg State.phase (s.construct_eq dbg c)).trans hp)
  | setcfg ch gain =>
    obtain ⟨c, hc⟩ := firstRefusal_setcfg h
    refine ⟨{ s with cfg := c }, .setcfg s c, ?_⟩
    rw [accepted, hc]
    exact .inIdle _ hp
  | prepare => exact ⟨_, .moves ((s.enter_moves _ _).trans (State.prepare_moves _)), .toIdle _⟩
  | pulse => exact ⟨_, .moves ((s.enter_moves _ _).tail (.pulse _)), .toIdle _⟩
  | wrgain => exact ⟨_, .moves ((s.enter_moves _ _).trans (State.wrgain_moves _)), .toIdle _⟩
  | read => exact ⟨_, .moves ((s.enter_moves _ _).trans (State.read_moves _)), .toIdle _⟩
  | resett line => exact ⟨_, .moves (.single (.resett s line)), .inIdle _ hp⟩
  | sample line => exact ⟨_, .moves (.single (.sample s line)), .inIdle _ hp⟩
  | final line =>
    refine ⟨_, .moves (.single (.final s line)), .inIdle _ ?_⟩
    rcases s.final_cases line with hf | ⟨l, -, -, hf⟩ <;> rw [hf] <;> exact hp
  | decode raw => exact ⟨_, .decode raw s _, .inIdle _ hp⟩

/-- Everything `exec` can do: the answer Busy, or in Idle what the instruction writes, which is nothing when it is refused, and
its end. -/
theorem exec_cases {i : Instr} {s t : State} (h : exec i s = .next t) :
    (s.phase ≠ .idle ∧ t = onlyBusyAnswer s) ∨ (s.phase = .idle ∧ ∃ u, Writes i s u ∧ EndsFrom u t) := by
  rcases exec_next h with hbusy | ⟨hp, c, -, rfl⟩ | ⟨hp, hr, rfl⟩
  · exact .inl hbusy
  · exact .inr ⟨hp, s, .moves .refl, .inIdle c hp⟩
  · exact .inr ⟨hp, accepted_cases hp hr⟩

/-- The four commands that leave Idle begin with moves; the others are performed. -/
theorem begun_cases (i : Instr) (s : State) : Moves s (begun i s) ∨ begun i s = accepted i s := by
  cases i with
  | prepare => exact .inl ((s.enter_moves _ _).trans (State.startPolling_moves _))
  | pulse => exact .inl (s.enter_moves _ _)
  | wrgain => exact .inl ((s.enter_moves _ _).position _ _ _ _ _)
  | read => exact .inl ((s.enter_moves _ _).trans (State.startPolling_moves _))
  | construct | setcfg | resett | sample | final | decode => exact .inr rfl

/-- Everything `start` can do: what `exec` does, or the moves that begin an operation. -/
theorem start_cases {i : Instr} {s t : State} (hp : s.phase = .idle) (h : start i s = .next t) :
    Moves s t ∨ exec i s = .next t := by
  rcases start_next hp h with ⟨c, hr, rfl⟩ | ⟨hr, rfl⟩
  · exact .inr (exec_of_refusal hp hr)
  · exact (begun_cases i s).imp_right fun h => by rw [h, exec_of_accept hp hr]

/-- A turn: moves, after which the operation may end. -/
def Turn (s t : State) : Prop := ∃ u, Moves s u ∧ (t = u ∨ ∃ c, t = u.endOperation c)

theorem Turn.of_moves {s t : State} (h : Moves s t) : Turn s t := ⟨t, h, .inl rfl⟩

theorem Turn.ends {s u : State} (h : Moves s u) (c : Cause) : Turn s (u.endOperation c) := ⟨u, h, .inr ⟨c, rfl⟩⟩

theorem Turn.prepared {s u : State} (h : Moves s u) (c : Cause) : Turn s (u.prepared c) := by
  unfold State.prepared
  split
  · exact .of_moves (h.trans u.startSampling_moves)
  · exact .ends h c

/-- Everything a turn can do (40_sequencer.md R110). -/
theorem advance_turn (s : State) : Turn s (advance s) := by
  unfold advance
  split
  · exact .of_moves .refl
  · unfold State.advancePreparing
    have hpoll := s.pollOnce_moves
    split
    · dsimp only
      split
      · exact .prepared hpoll _
      · split
        · exact .of_moves (hpoll.tail (.wait _))
        · exact .prepared (hpoll.tail (.wait _)) _
    · exact .prepared .refl _
  · unfold State.advanceSampling
    split
    · split
      · next u h =>
        have hs := (State.pulse_moves h).trans u.sampleLines_moves
        split
        · exact .of_moves hs
        · exact .of_moves (hs.trans (State.goto_moves _ _))
      · next c u _ h => exact .ends (State.pulse_moves h) c
    · exact .of_moves (s.goto_moves _)
  · exact .of_moves (Moves.position s.finalizeLines_moves _ _ _ _ _)
  · unfold State.advanceSettingGain
    split
    · split
      · next u h =>
        have hs := Moves.position (State.pulse_moves h) u.phase u.running u.poll u.bit (u.tp + 1)
        split
        · exact .of_moves hs
        · exact .ends hs _
      · next c u _ h => exact .ends (State.pulse_moves h) c
    · exact .ends .refl _
  · exact .ends (Move.pulse s).moves _

/-! ### Statements about every instruction and every turn -/

theorem Writes.answers {i : Instr} {s u : State} (h : Writes i s u) : u.answers = s.answers := by
  cases h with
  | construct => rw [State.construct_eq]
  | setcfg | decode => rfl
  | moves h => exact h.frame.answers

/-- Settles O16: an instruction gives no answer before its end, which gives one. -/
theorem everyInstructionIsAnsweredOnce : Obligations.EveryInstructionIsAnsweredOnce := by
  intro i s t h
  rcases exec_cases h with ⟨hp, rfl⟩ | ⟨hp, u, hw, he⟩
  · exact ⟨_, rfl, rfl, rfl, fun h => absurd h hp, fun _ => ⟨rfl, rfl⟩⟩
  · rw [← hw.answers]
    cases he with
    | inIdle c hu => exact ⟨_, rfl, rfl, rfl, fun _ => ⟨hu, rfl, rfl⟩, fun h => absurd hp h⟩
    | toIdle c => exact ⟨_, rfl, rfl, rfl, fun _ => ⟨rfl, rfl, rfl⟩, fun h => absurd hp h⟩

theorem construct_params (s : State) (dbg : Bool) (c : Cfg) : (s.construct dbg c).params = s.params := by
  rw [State.construct_eq]

/-- Who writes the control registers among the instructions (10_state.md R20): the clauses of O53 of what is written before
the end. -/
theorem Writes.control {i : Instr} {s u : State} (h : Writes i s u) :
    (u.cfg ≠ s.cfg → (∃ dbg ch gain, i = .construct dbg ch gain) ∨ (∃ ch gain, i = .setcfg ch gain)) ∧
    (u.dbg ≠ s.dbg → ∃ dbg ch gain, i = .construct dbg ch gain) ∧
    (u.constructed ≠ s.constructed → u.constructed = true ∧ ∃ dbg ch gain, i = .construct dbg ch gain) ∧
    (u.res ≠ s.res → ∃ raw, i = .decode raw) ∧
    u.nlines = s.nlines ∧ u.params = s.params := by
  cases h with
  | construct _ h =>
    refine ⟨fun _ => .inl ⟨_, _, _, rfl⟩, fun _ => ⟨_, _, _, rfl⟩, fun _ => ⟨rfl, _, _, _, rfl⟩, fun hres => ?_,
      construct_nlines _ _ _, construct_params _ _ _⟩
    exact absurd (by rw [State.construct_eq]) hres
  | setcfg c => exact ⟨fun _ => .inr ⟨_, _, rfl⟩, absurd rfl, absurd rfl, absurd rfl, rfl, rfl⟩
  | decode raw _ r => exact ⟨absurd rfl, absurd rfl, absurd rfl, fun _ => ⟨_, rfl⟩, rfl, rfl⟩
  | moves h =>
    have hf := h.frame
    exact ⟨absurd hf.cfg, absurd hf.dbg, absurd hf.constructed, absurd hf.res, hf.nlines, hf.params⟩

/-- Settles O53: `Writes.control`, as no end of an instruction writes these registers, and the frame of a turn. -/
theorem controlStateWriters : Obligations.ControlStateWriters := by
  refine ⟨fun i s t h => ?_, fun s => ?_⟩
  · rcases exec_cases h with ⟨-, rfl⟩ | ⟨-, u, hw, he⟩
    · exact Writes.control (i := i) (u := s) (.moves .refl)
    · cases he with
      | inIdle | toIdle => exact hw.control
  · obtain ⟨u, hm, h | ⟨c, h⟩⟩ := advance_turn s <;> rw [h] <;> have hf := hm.frame <;>
      exact ⟨hf.cfg, hf.dbg, hf.constructed, hf.res, hf.nlines, hf.params⟩

theorem Writes.calibration {i : Instr} {s u : State} (h : Writes i s u) (hi : ∀ dbg ch gain, i ≠ .construct dbg ch gain) :
    u.lines.map Line.offset = s.lines.map Line.offset ∧ u.lines.map Line.ratio = s.lines.map Line.ratio := by
  cases h with
  | construct => exact absurd rfl (hi _ _ _)
  | setcfg | decode => exact ⟨rfl, rfl⟩
  | moves h => exact ⟨h.frame.offset, h.frame.ratio⟩

/-- Settles O57: the frame of the moves, as only CONSTRUCT replaces the lines. -/
theorem calibrationIsNeverTouched : Obligations.CalibrationIsNeverTouched := by
  refine ⟨fun i s t hi h => ?_, fun s => ?_⟩
  · rcases exec_cases h with ⟨-, rfl⟩ | ⟨-, u, hw, he⟩
    · exact ⟨rfl, rfl⟩
    · cases he with
      | inIdle | toIdle => exact hw.calibration hi
  · obtain ⟨u, hm, h | ⟨c, h⟩⟩ := advance_turn s <;> rw [h] <;> exact ⟨hm.frame.offset, hm.frame.ratio⟩

end Sys2Proof.Machine
end

section
/-! Each turn as an equation, one per phase, and where it leaves the block among the phases (40_sequencer.md R110). -/

namespace Sys2Proof.Machine

variable {s : State}

/-! ### The position after the parts of a turn -/

@[simp] theorem State.pulse_phase (s : State) : s.pulse.2.phase = s.phase := by rw [State.pulse_eq]
@[simp] theorem State.pulse_running (s : State) : s.pulse.2.running = s.running := by rw [State.pulse_eq]
@[simp] theorem State.pulse_poll (s : State) : s.pulse.2.poll = s.poll := by rw [State.pulse_eq]
@[simp] theorem State.pulse_bit (s : State) : s.pulse.2.bit = s.bit := by rw [State.pulse_eq]
@[simp] theorem State.pulse_tp (s : State) : s.pulse.2.tp = s.tp := by rw [State.pulse_eq]

@[simp] theorem State.pollOnce_phase (s : State) : s.pollOnce.2.phase = s.phase := by rw [State.pollOnce_eq]
@[simp] theorem State.pollOnce_running (s : State) : s.pollOnce.2.running = s.running := by rw [State.pollOnce_eq]
@[simp] theorem State.pollOnce_poll (s : State) : s.pollOnce.2.poll = s.poll + 1 := by rw [State.pollOnce_eq]
@[simp] theorem State.pollOnce_bit (s : State) : s.pollOnce.2.bit = s.bit := by rw [State.pollOnce_eq]
@[simp] theorem State.pollOnce_tp (s : State) : s.pollOnce.2.tp = s.tp := by rw [State.pollOnce_eq]

@[simp] theorem State.sampleLines_phase (s : State) : s.sampleLines.phase = s.phase := by rw [State.sampleLines_eq]
@[simp] theorem State.sampleLines_running (s : State) : s.sampleLines.running = s.running := by rw [State.sampleLines_eq]
@[simp] theorem State.sampleLines_poll (s : State) : s.sampleLines.poll = s.poll := by rw [State.sampleLines_eq]
@[simp] theorem State.sampleLines_bit (s : State) : s.sampleLines.bit = s.bit + 1 := by rw [State.sampleLines_eq]
@[simp] theorem State.sampleLines_tp (s : State) : s.sampleLines.tp = s.tp := by rw [State.sampleLines_eq]

@[simp] theorem State.startSampling_phase (s : State) : s.startSampling.phase = .sampling := by rw [State.startSampling_eq]
@[simp] theorem State.startSampling_running (s : State) : s.startSampling.running = s.running := by
  rw [State.startSampling_eq]
@[simp] theorem State.startSampling_poll (s : State) : s.startSampling.poll = s.poll := by rw [State.startSampling_eq]
@[simp] theorem State.startSampling_bit (s : State) : s.startSampling.bit = 0 := by rw [State.startSampling_eq]
@[simp] theorem State.startSampling_tp (s : State) : s.startSampling.tp = s.tp := by rw [State.startSampling_eq]

/-- FINAL keeps every quantity that neither the lines nor the diagnostics show in. -/
theorem State.final_keeps {β : Type} (π : State → β)
    (h : ∀ (s : State) lines diag, π { s with lines := lines, diag := diag } = π s) (s : State) (i : Nat) :
    π (s.final i) = π s := by
  rcases s.final_cases i with hf | ⟨l, -, -, hf⟩ <;> rw [hf]
  exact h _ _ _

@[simp] theorem State.finalizeLines_running (s : State) : s.finalizeLines.running = s.running :=
  State.eachLine_frame _ State.running (State.final_keeps _ fun _ _ _ => rfl) _
@[simp] theorem State.finalizeLines_poll (s : State) : s.finalizeLines.poll = s.poll :=
  State.eachLine_frame _ State.poll (State.final_keeps _ fun _ _ _ => rfl) _
@[simp] theorem State.finalizeLines_bit (s : State) : s.finalizeLines.bit = s.bit :=
  State.eachLine_frame _ State.bit (State.final_keeps _ fun _ _ _ => rfl) _

/-! ### The turns -/

theorem State.pulse_fst (s : State) :
    s.pulse.1 = if s.params.trips (s.env.time 0) then .timingViolation else .ok := by rw [State.pulse_eq]

theorem State.pulse_slow (h : s.params.trips (s.env.time 0) = true) : s.pulse = (.timingViolation, s.pulse.2) := by
  rw [← Prod.mk.eta (p := s.pulse), State.pulse_fst, if_pos h]

theorem State.pulse_passed (h : s.params.trips (s.env.time 0) = false) : s.pulse = (.ok, s.pulse.2) := by
  rw [← Prod.mk.eta (p := s.pulse), State.pulse_fst, if_neg (by simp [h])]

theorem State.pollOnce_fst (s : State) : s.pollOnce.1 = pollReady s.env s.nlines 0 := by
  rw [State.pollOnce_eq]
  exact decide_eq_decide.mpr (by simp)

theorem State.prepared_notReady (s : State) : s.prepared .notReady = s.endOperation .notReady := by
  simp [State.prepared]

theorem advance_idle (hp : s.phase = .idle) : advance s = s := by rw [advance, hp]

theorem advance_preparing (hp : s.phase = .preparing) (h : s.poll < 20) :
    advance s =
      if pollReady s.env s.nlines 0 then s.pollOnce.2.prepared .ok
      else if s.poll + 1 < 20 then s.pollOnce.2.wait
      else s.pollOnce.2.wait.endOperation .notReady := by
  have hlt : s.poll < Config.pollMax := h
  rw [advance, hp]
  dsimp only
  rw [State.advancePreparing, if_pos hlt, ← State.pollOnce_fst, ← State.prepared_notReady]
  dsimp only
  rw [State.wait_poll, State.pollOnce_poll]
  rfl

theorem advance_preparing_late (hp : s.phase = .preparing) (h : ¬ s.poll < 20) :
    advance s = s.endOperation .notReady := by
  have hge : ¬ s.poll < Config.pollMax := h
  rw [advance, hp]
  dsimp only
  rw [State.advancePreparing, if_neg hge, State.prepared_notReady]

theorem advance_sampling (hp : s.phase = .sampling) (h : s.bit < 24) :
    advance s =
      if s.params.trips (s.env.time 0) then s.pulse.2.endOperation .timingViolation
      else if s.bit + 1 < 24 then s.pulse.2.sampleLines
      else s.pulse.2.sampleLines.goto .finalizing := by
  have hlt : s.bit < Config.dataBits := h
  rw [advance, hp]
  dsimp only
  rw [State.advanceSampling, if_pos hlt]
  cases ht : s.params.trips (s.env.time 0) with
  | true => rw [State.pulse_slow ht]; rfl
  | false =>
    rw [State.pulse_passed ht]
    dsimp only
    rw [State.sampleLines_bit, State.pulse_bit]
    rfl

theorem advance_sampling_late (hp : s.phase = .sampling) (h : ¬ s.bit < 24) : advance s = s.goto .finalizing := by
  have hge : ¬ s.bit < Config.dataBits := h
  rw [advance, hp]
  dsimp only
  rw [State.advanceSampling, if_neg hge]

theorem advance_finalizing (hp : s.phase = .finalizing) :
    advance s = { s.finalizeLines.goto .settingGain with tp := 0 } := by
  rw [advance, hp]
  rfl

theorem advance_settingGain (hp : s.phase = .settingGain) (h : s.tp < s.cfg.pulses) :
    advance s =
      if s.params.trips (s.env.time 0) then s.pulse.2.endOperation .timingViolation
      else if s.tp + 1 < s.cfg.pulses then { s.pulse.2 with tp := s.tp + 1 }
      else { s.pulse.2 with tp := s.tp + 1 }.endOperation .ok := by
  rw [advance, hp]
  dsimp only
  rw [State.advanceSettingGain, if_pos h]
  have hcfg : s.pulse.2.cfg = s.cfg := (Move.pulse s).frame.cfg
  cases ht : s.params.trips (s.env.time 0) with
  | true => rw [State.pulse_slow ht]; rfl
  | false =>
    rw [State.pulse_passed ht]
    dsimp only
    rw [hcfg, State.pulse_tp]
    rfl

theorem advance_settingGain_late (hp : s.phase = .settingGain) (h : ¬ s.tp < s.cfg.pulses) :
    advance s = s.endOperation .ok := by
  rw [advance, hp]
  dsimp only
  rw [State.advanceSettingGain, if_neg h]

theorem advance_pulsing (hp : s.phase = .pulsing) : advance s = s.pulse.2.endOperation s.pulse.1 := by
  rw [advance, hp]
  rfl

/-! ### The table of transitions -/

theorem State.prepared_ok_phase (s : State) :
    (s.prepared .ok).phase = if s.running = some .read then .sampling else .idle := by
  by_cases h : s.running = some .read <;> simp [State.prepared, h]

/-- Settles O39: the equation of each turn, read at the phase; the entries by `start_of_accept`. -/
theorem phaseMovesAsTheTable : Obligations.PhaseMovesAsTheTable := by
  refine ⟨fun s hp h => ?_, fun s hp h => ⟨fun ht => ?_, fun ht hb => ?_, fun ht hb => ?_⟩, fun s hp => ?_,
    fun s hp h => ?_, fun s hp => ?_, fun s ⟨hc, hp⟩ => ⟨?_, ?_, ?_, fun hf => ?_⟩⟩
  · rw [advance_preparing hp h]
    split
    · rw [State.prepared_ok_phase, State.pollOnce_running]
    · split
      · rw [State.wait_phase, State.pollOnce_phase, hp]
      · rfl
  · rw [advance_sampling hp h, if_pos ht]
    rfl
  · rw [advance_sampling hp h, if_neg (by simp [ht]), if_pos (by omega)]
    simp [hp]
  · rw [advance_sampling hp h, if_neg (by simp [ht]), if_neg (by omega)]
    rfl
  · rw [advance_finalizing hp]
    rfl
  · rw [advance_settingGain hp h]
    cases s.params.trips (s.env.time 0) with
    | true => rfl
    | false =>
      by_cases hlt : s.tp + 1 < s.cfg.pulses
      · simp [hlt, hp]
      · simp [hlt]
  · rw [advance_pulsing hp]
    rfl
  · exact ⟨_, start_of_accept hp (by simp [firstRefusal, hc]), rfl⟩
  · exact ⟨_, start_of_accept hp (by simp [firstRefusal, hc]), rfl⟩
  · exact ⟨_, start_of_accept hp (by simp [firstRefusal, hc]), rfl⟩
  · exact ⟨_, start_of_accept hp (by simp [firstRefusal, hc, hf]), rfl⟩

/-! ### Termination -/

/-- The most turns an operation can still take: polls, data pulses, Finalizing, trailing pulses (40_sequencer.md R110). -/
def turnsLeft (s : State) : Nat :=
  match s.phase with
  | .idle => 0
  | .preparing => max (20 - s.poll) 1 + 28
  | .sampling => max (24 - s.bit) 1 + 4
  | .finalizing => 4
  | .settingGain => max (s.cfg.pulses - s.tp) 1
  | .pulsing => 1

theorem Cfg.pulses_le (c : Cfg) : c.pulses ≤ 3 := by cases c <;> decide

theorem turnsLeft_le (s : State) : turnsLeft s ≤ maxTurns := by
  have := s.cfg.pulses_le
  have : maxTurns = 48 := rfl
  unfold turnsLeft
  split <;> omega

theorem turnsLeft_idle (h : s.phase = .idle) : turnsLeft s = 0 := by rw [turnsLeft, h]

theorem turnsLeft_endOperation (s : State) (c : Cause) : turnsLeft (s.endOperation c) = 0 := turnsLeft_idle rfl

theorem turnsLeft_goto_finalizing (s : State) : turnsLeft (s.goto .finalizing) = 4 := rfl

theorem turnsLeft_prepared (s : State) (c : Cause) : turnsLeft (s.prepared c) ≤ 28 := by
  unfold State.prepared
  split
  · simp [turnsLeft]
  · simp [turnsLeft_endOperation]

/-- Every turn outside Idle leaves fewer. -/
theorem turnsLeft_advance (h : s.phase ≠ .idle) : turnsLeft (advance s) < turnsLeft s := by
  cases hp : s.phase with
  | idle => exact absurd hp h
  | preparing =>
    have hleft : turnsLeft s = max (20 - s.poll) 1 + 28 := by rw [turnsLeft, hp]
    by_cases hlt : s.poll < 20
    · rw [advance_preparing hp hlt]
      split
      · have := turnsLeft_prepared s.pollOnce.2 .ok
        omega
      · split
        · simp only [turnsLeft, State.wait_phase, State.pollOnce_phase, hp, State.wait_poll, State.pollOnce_poll]
          omega
        · rw [turnsLeft_endOperation]
          omega
    · rw [advance_preparing_late hp hlt, turnsLeft_endOperation]
      omega
  | sampling =>
    have hleft : turnsLeft s = max (24 - s.bit) 1 + 4 := by rw [turnsLeft, hp]
    by_cases hlt : s.bit < 24
    · rw [advance_sampling hp hlt]
      split
      · rw [turnsLeft_endOperation]
        omega
      · split
        · simp only [turnsLeft, State.sampleLines_phase, State.pulse_phase, hp, State.sampleLines_bit, State.pulse_bit]
          omega
        · rw [turnsLeft_goto_finalizing]
          omega
    · rw [advance_sampling_late hp hlt, turnsLeft_goto_finalizing]
      omega
  | finalizing =>
    have := s.finalizeLines.cfg.pulses_le
    rw [advance_finalizing hp]
    simp only [turnsLeft, State.goto_phase, State.goto_cfg, hp]
    omega
  | settingGain =>
    have hleft : turnsLeft s = max (s.cfg.pulses - s.tp) 1 := by rw [turnsLeft, hp]
    by_cases hlt : s.tp < s.cfg.pulses
    · rw [advance_settingGain hp hlt]
      split
      · rw [turnsLeft_endOperation]
        omega
      · split
        · have hcfg : s.pulse.2.cfg = s.cfg := (Move.pulse s).frame.cfg
          simp only [turnsLeft, State.pulse_phase, hp, hcfg]
          omega
        · rw [turnsLeft_endOperation]
          omega
    · rw [advance_settingGain_late hp hlt, turnsLeft_endOperation]
      omega
  | pulsing =>
    rw [advance_pulsing hp, turnsLeft_endOperation]
    simp [turnsLeft, hp]

theorem advanceN_idle (n : Nat) (h : s.phase = .idle) : advanceN n s = s := by
  induction n with
  | zero => rfl
  | succ n ih => rw [advanceN, advance_idle h, ih]

theorem advanceN_phase (n : Nat) (s : State) (h : turnsLeft s ≤ n) : (advanceN n s).phase = .idle := by
  induction n generalizing s with
  | zero =>
    by_contra hp
    have := turnsLeft_advance (s := s) hp
    omega
  | succ n ih =>
    by_cases hp : s.phase = .idle
    · rw [advanceN_idle _ hp, hp]
    · have := turnsLeft_advance hp
      exact ih _ (by omega)

end Sys2Proof.Machine
end

section
/-! What a step can do to the contents of the block, as a chain of effects, and the invariants it keeps (10_state.md R20 to
R41). -/

namespace Sys2Proof.Machine

/-- The registers that say where the block stands and what it answered, with the answers given. -/
structure Control where
  phase : Phase
  running : Option Running
  poll : Nat
  bit : Nat
  tp : Nat
  ok : Bool
  cause : Cause
  answers : List Answer
  fresh : Nat

/-- The state with these registers. -/
def State.withControl (s : State) (c : Control) : State :=
  { s with
    phase := c.phase
    running := c.running
    poll := c.poll
    bit := c.bit
    tp := c.tp
    ok := c.ok
    cause := c.cause
    answers := c.answers
    fresh := c.fresh }

/-- The registers of a state. -/
def State.control (s : State) : Control where
  phase := s.phase
  running := s.running
  poll := s.poll
  bit := s.bit
  tp := s.tp
  ok := s.ok
  cause := s.cause
  answers := s.answers
  fresh := s.fresh

/-- One effect of a step other than an accepted CONSTRUCT. -/
inductive Effect : State → State → Prop
  | move {s t : State} (h : Move s t) : Effect s t
  | control (s : State) (c : Control) : Effect s (s.withControl c)
  | port (s : State) (port : List Presented) : Effect s { s with port := port }
  | cfg (s : State) (c : Cfg) : Effect s { s with cfg := c }
  | res (s : State) (r : Res) : Effect s { s with res := r }

/-- Any number of effects. -/
abbrev Effects : State → State → Prop := Relation.ReflTransGen Effect

theorem Moves.effects {s t : State} (h : Moves s t) : Effects s t :=
  Relation.ReflTransGen.mono (fun _ _ => Effect.move) _ _ h

theorem EndsFrom.control {u t : State} (h : EndsFrom u t) : t = u.withControl t.control := by
  cases h <;> rfl

theorem effects_onlyResult (s : State) (c : Cause) : Effects s (onlyResult s c) :=
  .single (.control s (onlyResult s c).control)

/-- What `exec` does is a chain of effects, or an accepted CONSTRUCT and then its end. -/
theorem exec_effects {i : Instr} {s t : State} (h : exec i s = .next t) :
    Effects s t ∨ ∃ dbg ch gain c k, i = .construct dbg ch gain ∧ cfgOf ch gain = some c ∧
      t = (s.construct dbg c).withControl k := by
  rcases exec_cases h with ⟨-, rfl⟩ | ⟨-, u, hw, he⟩
  · exact .inl (.single (.control s (onlyBusyAnswer s).control))
  · rw [he.control]
    cases hw with
    | construct _ hc => exact .inr ⟨_, _, _, _, _, rfl, hc, rfl⟩
    | setcfg _ c => exact .inl (.tail (.single (.cfg s c)) (.control _ _))
    | decode raw _ r => exact .inl (.tail (.single (.res s r)) (.control _ _))
    | moves hm => exact .inl (.tail hm.effects (.control _ _))

theorem Turn.effects {s t : State} (h : Turn s t) : Effects s t := by
  obtain ⟨u, hm, rfl | ⟨c, rfl⟩⟩ := h
  · exact hm.effects
  · exact .tail hm.effects (.control u (u.endOperation c).control)

/-- A step accepts a CONSTRUCT whose pair is valid, and ends in `t`. -/
def AcceptsConstruct (s t : State) : Prop :=
  ∃ p rest dbg ch gain c k, s.phase = .idle ∧ s.port = p :: rest ∧ decode p.word = .legal (.construct dbg ch gain) ∧
    cfgOf ch gain = some c ∧ t = (({ s with port := rest } : State).construct dbg c).withControl k

/-- Everything a step can do to the contents of the block. -/
theorem step_effects {s t : State} (h : step s = .next t) : Effects s t ∨ AcceptsConstruct s t := by
  rcases step_next h with ⟨-, rfl⟩ | rfl | ⟨p, rest, hp, hport, h⟩
  · obtain ⟨port, h | h⟩ := s.progress_cases <;> rw [h]
    · exact .inl (.head (.port s port) (advance_turn _).effects)
    · exact .inl (.head (.port s port) (.single (.control _ (onlyBusyAnswer _).control)))
  · exact .inl .refl
  have hs : Effects s { s with port := rest } := .single (.port s rest)
  have hexec {i : Instr} (hdec : decode p.word = .legal i) (h : exec i { s with port := rest } = .next t) :
      Effects s t ∨ AcceptsConstruct s t := by
    rcases exec_effects h with he | ⟨dbg, ch, gain, c, k, rfl, hc, ht⟩
    · exact .inl (hs.trans he)
    · exact .inr ⟨p, rest, dbg, ch, gain, c, k, hp, hport, hdec, hc, ht⟩
  rcases h with rfl | ⟨i, hdec, h | h⟩
  · exact .inl (hs.trans (effects_onlyResult _ _))
  · exact hexec hdec h
  · exact (start_cases (s := { s with port := rest }) hp h).elim (fun hm => .inl (hs.trans hm.effects)) (hexec hdec)

/-! ### The lines: append-only, aligned, never INVALID -/

/-- What an effect can do to one line: to its accumulator anything, to its histories nothing, or the append of the accumulator
and its decode when they are not full (20_memory.md R57). -/
def LineStep (p : Params) (l m : Line) : Prop :=
  (m.rawHist = l.rawHist ∧ m.signedHist = l.signedHist) ∨
    (p.full l.rawHist.length = false ∧ m.rawHist = l.rawHist ++ [l.acc] ∧ m.signedHist = l.signedHist ++ [decodeRaw l.acc])

theorem LineStep.refl (p : Params) (l : Line) : LineStep p l l := .inl ⟨rfl, rfl⟩

/-- Every line of `s` steps to the line of `t` at its index, and there are no others. -/
def LinesStep (s t : State) : Prop := List.Forall₂ (LineStep s.params) s.lines t.lines

theorem forall₂_modify {α : Type} {R : α → α → Prop} (hrefl : ∀ x, R x x) {f : α → α} (ls : List α) (i : Nat)
    (h : ∀ x, ls[i]? = some x → R x (f x)) : List.Forall₂ R ls (ls.modify i f) := by
  refine List.forall₂_iff_get.mpr ⟨(List.length_modify _ _ _).symm, fun k hk hk' => ?_⟩
  simp only [List.get_eq_getElem, List.getElem_modify]
  split
  · next hik =>
    subst hik
    exact h _ (List.getElem?_eq_getElem hk)
  · exact hrefl _

theorem LinesStep.of_eq {s t : State} (h : t.lines = s.lines) : LinesStep s t := by
  rw [LinesStep, h]
  exact List.forall₂_same.mpr fun l _ => .refl _ l

theorem Effect.lines {s t : State} (h : Effect s t) : LinesStep s t := by
  cases h with
  | control | port | cfg | res => exact .of_eq rfl
  | move h =>
    cases h with
    | position | clockLow | wait => exact .of_eq rfl
    | pollLines => exact .of_eq (by rw [State.pollLines_eq])
    | pulse => exact .of_eq (by rw [State.pulse_eq])
    | resett i => exact forall₂_modify (LineStep.refl _) _ _ fun l _ => .inl ⟨rfl, rfl⟩
    | sample i => exact forall₂_modify (LineStep.refl _) _ _ fun l _ => .inl ⟨rfl, rfl⟩
    | final i =>
      rcases s.final_cases i with h | ⟨l, hl, hroom, h⟩ <;> rw [h]
      · exact .of_eq rfl
      · refine forall₂_modify (LineStep.refl _) _ _ fun m hm => ?_
        rw [hl] at hm
        cases hm
        exact .inr ⟨hroom, rfl, rfl⟩

end Sys2Proof.Machine
end

section
/-! The invariants of every step: what the chain of effects keeps (10_state.md R23, R24, R35, R41, 20_memory.md R61). -/

namespace Sys2Proof.Machine

/-- A property that every effect keeps is kept by a chain of them. -/
theorem Effects.keeps {P : State → Prop} (h : ∀ s t, Effect s t → P s → P t) {s t : State} (hst : Effects s t)
    (hs : P s) : P t := by
  induction hst with
  | refl => exact hs
  | tail _ he ih => exact h _ _ he ih

theorem forall₂_getElem? {α β : Type} {R : α → β → Prop} {ls : List α} {ms : List β} (h : List.Forall₂ R ls ms) {i : Nat}
    {l : α} (hl : ls[i]? = some l) : ∃ m, ms[i]? = some m ∧ R l m := by
  obtain ⟨hlen, hget⟩ := List.forall₂_iff_get.mp h
  obtain ⟨hi, rfl⟩ := List.getElem?_eq_some_iff.mp hl
  exact ⟨_, List.getElem?_eq_getElem (hlen ▸ hi), hget i hi (hlen ▸ hi)⟩

theorem forall₂_mem_right {α β : Type} {R : α → β → Prop} {ls : List α} {ms : List β} (h : List.Forall₂ R ls ms) {m : β}
    (hm : m ∈ ms) : ∃ l ∈ ls, R l m := by
  obtain ⟨hlen, hget⟩ := List.forall₂_iff_get.mp h
  obtain ⟨i, hi, rfl⟩ := List.mem_iff_getElem.mp hm
  exact ⟨_, List.getElem_mem (hlen ▸ hi), hget i (hlen ▸ hi) hi⟩

theorem Effect.params {s t : State} (h : Effect s t) : t.params = s.params := by
  cases h with
  | control | port | cfg | res => rfl
  | move h => exact h.frame.params

theorem Effect.dbg {s t : State} (h : Effect s t) : t.dbg = s.dbg := by
  cases h with
  | control | port | cfg | res => rfl
  | move h => exact h.frame.dbg

theorem construct_mem_lines {s : State} {dbg : Bool} {c : Cfg} {k : Control} {l : Line}
    (h : l ∈ ((s.construct dbg c).withControl k).lines) : l.rawHist = [] ∧ l.signedHist = [] :=
  construct_lines_empty (s := s) (dbg := dbg) (c := c) h

/-! ### Histories -/

/-- Settles O48: an appended entry is a decode, which is never INVALID, and a CONSTRUCT leaves no entry. -/
theorem invalidIsNeverStored : Obligations.InvalidIsNeverStored := by
  intro s t hs h
  rcases step_effects h with he | ⟨p, rest, dbg, ch, gain, c, k, -, -, -, -, rfl⟩
  · refine Effects.keeps (P := fun s => ∀ l ∈ s.lines, SignedEntry.invalid ∉ l.signedHist) (fun s t he hs m hm => ?_) he hs
    obtain ⟨l, hl, ⟨-, hsame⟩ | ⟨-, -, happend⟩⟩ := forall₂_mem_right he.lines hm
    · rw [hsame]
      exact hs l hl
    · rw [happend, decodeRaw_eq_toInt]
      simpa using hs l hl
  · intro l hl
    rw [(construct_mem_lines hl).2]
    exact List.not_mem_nil

/-- Every history of `s` begins the history of `t` on the same line. -/
def HistoriesKept (s t : State) : Prop :=
  ∀ (i : Nat) (l : Line), s.lines[i]? = some l →
    ∃ m, t.lines[i]? = some m ∧ l.rawHist <+: m.rawHist ∧ l.signedHist <+: m.signedHist

theorem HistoriesKept.refl (s : State) : HistoriesKept s s := fun _ l hl => ⟨l, hl, List.prefix_rfl, List.prefix_rfl⟩

theorem HistoriesKept.trans {s t u : State} (h : HistoriesKept s t) (h' : HistoriesKept t u) : HistoriesKept s u := by
  intro i l hl
  obtain ⟨m, hm, hraw, hsigned⟩ := h i l hl
  obtain ⟨n, hn, hraw', hsigned'⟩ := h' i m hm
  exact ⟨n, hn, hraw.trans hraw', hsigned.trans hsigned'⟩

theorem LineStep.histories {p : Params} {l m : Line} (h : LineStep p l m) :
    l.rawHist <+: m.rawHist ∧ l.signedHist <+: m.signedHist := by
  rcases h with ⟨hraw, hsigned⟩ | ⟨-, hraw, hsigned⟩ <;> rw [hraw, hsigned]
  · exact ⟨List.prefix_rfl, List.prefix_rfl⟩
  · exact ⟨List.prefix_append _ _, List.prefix_append _ _⟩

theorem Effect.historiesKept {s t : State} (h : Effect s t) : HistoriesKept s t := by
  intro i l hl
  obtain ⟨m, hm, hstep⟩ := forall₂_getElem? h.lines hl
  exact ⟨m, hm, hstep.histories⟩

/-- Settles O52: effects keep the histories, and a CONSTRUCT that empties them was accepted. -/
theorem onlyConstructEmptiesHistories : Obligations.OnlyConstructEmptiesHistories := by
  intro s t h
  rcases step_effects h with he | ⟨p, rest, dbg, ch, gain, c, k, hp, hport, hdec, hc, rfl⟩
  · exact .inl (he.keeps (P := HistoriesKept s) (fun _ _ he hk => hk.trans he.historiesKept) (.refl s))
  · exact .inr ⟨fun l hl => construct_mem_lines hl, p, rest, dbg, ch, gain, c, hp, hport, hdec, hc⟩

/-! ### Diagnostics -/

/-- Diagnostics were only appended, and not at all when `DBG = 0`. -/
def DiagKept (s t : State) : Prop := t.dbg = s.dbg ∧ s.diag <+: t.diag ∧ (s.dbg = false → t.diag = s.diag)

theorem DiagKept.trans {s t u : State} (h : DiagKept s t) (h' : DiagKept t u) : DiagKept s u := by
  obtain ⟨hdbg, hpre, hoff⟩ := h
  obtain ⟨hdbg', hpre', hoff'⟩ := h'
  exact ⟨hdbg'.trans hdbg, hpre.trans hpre', fun h => (hoff' (hdbg.trans h)).trans (hoff h)⟩

theorem DiagKept.of_eq {s t : State} (hdbg : t.dbg = s.dbg) (h : t.diag = s.diag) : DiagKept s t :=
  ⟨hdbg, h ▸ List.prefix_rfl, fun _ => h⟩

theorem DiagKept.of_diagAfter {s t : State} {records : List Diag} (hdbg : t.dbg = s.dbg) (h : t.diag = diagAfter s records) :
    DiagKept s t := by
  refine ⟨hdbg, ?_, fun hoff => by simp [h, diagAfter, hoff]⟩
  rw [h, diagAfter]
  split
  · exact List.prefix_append _ _
  · exact List.prefix_rfl

theorem Effect.diagKept {s t : State} (h : Effect s t) : DiagKept s t := by
  have hdbg := h.dbg
  cases h with
  | control | port | cfg | res => exact .of_eq hdbg rfl
  | move h =>
    cases h with
    | position | clockLow | wait | resett | sample => exact .of_eq hdbg rfl
    | pollLines => exact .of_eq hdbg (by rw [State.pollLines_eq])
    | pulse =>
      rw [State.pulse_eq] at hdbg ⊢
      dsimp only
      split
      · exact .of_diagAfter hdbg rfl
      · exact .of_eq hdbg rfl
    | final i =>
      rcases s.final_cases i with h | ⟨l, -, -, h⟩ <;> rw [h] at hdbg ⊢
      · exact .of_eq hdbg rfl
      · exact .of_diagAfter hdbg rfl

/-- Settles O55: `DiagKept` of every effect; CONSTRUCT writes no diagnostic. -/
theorem diagnosticsOnlyWhenDebug : Obligations.DiagnosticsOnlyWhenDebug := by
  intro s t h
  rcases step_effects h with he | ⟨p, rest, dbg, ch, gain, c, k, -, -, -, -, rfl⟩
  · exact (he.keeps (P := DiagKept s) (fun _ _ he hk => hk.trans he.diagKept) (.of_eq rfl rfl)).2
  · have hdiag : ((({ s with port := rest } : State).construct dbg c).withControl k).diag = s.diag := by
      rw [State.construct_eq]
      rfl
    exact ⟨by rw [hdiag], fun _ => hdiag⟩

/-! ### The trace and the clock -/

theorem pulseShaped_cons {e : Event} (he : e ≠ .write .high) (es : List Event) :
    pulseShaped (e :: es) = pulseShaped es := by
  cases e with
  | write v =>
    cases v with
    | low => rfl
    | high => exact absurd rfl he
  | dir | read | wait | elapsed => rfl

theorem pulseShaped_append {es fs : List Event} (h : pulseShaped es = true) (h' : pulseShaped fs = true) :
    pulseShaped (es ++ fs) = true := by
  induction es using pulseShaped.induct with
  | case1 => exact h'
  | case2 es ih => exact ih h
  | case3 es hne => simp [pulseShaped] at h
  | case4 e es _ hne ih =>
    rw [pulseShaped_cons hne] at h
    rw [List.cons_append, pulseShaped_cons hne]
    exact ih h

theorem pulseShaped_of_clockNotWritten {es : List Event} (h : clockWritten es = false) : pulseShaped es = true := by
  induction es with
  | nil => rfl
  | cons e es ih =>
    obtain ⟨he, hes⟩ : ¬ (e = .write .low ∨ e = .write .high) ∧ clockWritten es = false := by
      simpa [clockWritten] using h
    rw [pulseShaped_cons fun h => he (.inr h)]
    exact ih hes

theorem clockWritten_append (es fs : List Event) : clockWritten (es ++ fs) = (clockWritten es || clockWritten fs) :=
  List.any_append

/-- The events added are in shape, and the clock is LOW when they write it and as it was when they do not. -/
def Traced (s t : State) : Prop :=
  ∃ es, t.trace = s.trace ++ es ∧ pulseShaped es = true ∧ t.clk = if clockWritten es then .low else s.clk

theorem Traced.trans {s t u : State} (h : Traced s t) (h' : Traced t u) : Traced s u := by
  obtain ⟨es, htrace, hshape, hclk⟩ := h
  obtain ⟨fs, htrace', hshape', hclk'⟩ := h'
  refine ⟨es ++ fs, by rw [htrace', htrace, List.append_assoc], pulseShaped_append hshape hshape', ?_⟩
  rw [hclk', hclk, clockWritten_append]
  cases clockWritten es <;> cases clockWritten fs <;> rfl

theorem Traced.quiet {s t : State} {es : List Event} (htrace : t.trace = s.trace ++ es) (hes : clockWritten es = false)
    (hclk : t.clk = s.clk) : Traced s t :=
  ⟨es, htrace, pulseShaped_of_clockNotWritten hes, by simp [hes, hclk]⟩

theorem Traced.of_eq {s t : State} (htrace : t.trace = s.trace) (hclk : t.clk = s.clk) : Traced s t :=
  .quiet (es := []) (by simp [htrace]) rfl hclk

theorem clockWritten_readEvents (d : Draws) (n base : Nat) : clockWritten (readEvents d n base) = false := by
  simp [clockWritten, readEvents]

theorem Effect.traced {s t : State} (h : Effect s t) : Traced s t := by
  cases h with
  | control | port | cfg | res => exact .of_eq rfl rfl
  | move h =>
    cases h with
    | position | resett => exact .of_eq rfl rfl
    | clockLow => exact ⟨[.write .low], rfl, rfl, rfl⟩
    | wait => exact .quiet (es := [.wait]) rfl rfl rfl
    | sample => exact .quiet (es := [.read _ _]) rfl rfl rfl
    | pollLines =>
      rw [State.pollLines_eq]
      exact .quiet rfl (clockWritten_readEvents _ _ _) rfl
    | pulse =>
      rw [State.pulse_eq]
      exact ⟨pulseEvents _, rfl, rfl, rfl⟩
    | final i => rcases s.final_cases i with h | ⟨l, -, -, h⟩ <;> rw [h] <;> exact .of_eq rfl rfl

theorem construct_traced (s : State) (port : List Presented) (dbg : Bool) (c : Cfg) (k : Control) :
    Traced s ((({ s with port := port } : State).construct dbg c).withControl k) := by
  rw [State.construct_eq]
  refine .quiet (List.append_assoc _ _ _) ?_ rfl
  simp [clockWritten]

theorem step_traced {s t : State} (h : step s = .next t) : Traced s t := by
  rcases step_effects h with he | ⟨p, rest, dbg, ch, gain, c, k, -, -, -, -, rfl⟩
  · exact he.keeps (P := Traced s) (fun _ _ he hk => hk.trans he.traced) (.of_eq rfl rfl)
  · exact construct_traced s rest dbg c k

/-- Settles O56: the events a step adds are those of its effects. -/
theorem everyPulseIsHighThenLow : Obligations.EveryPulseIsHighThenLow := by
  intro s t h
  obtain ⟨es, htrace, hshape, -⟩ := step_traced h
  exact ⟨es, htrace, hshape⟩

end Sys2Proof.Machine
end

section
/-! The invariant of the block (10_state.md R20 to R41): the contents by the effects of a step, the position by its turns. -/

namespace Sys2Proof.Machine

/-! ### The contents -/

/-- The histories of a line are aligned and within HDEPTH. -/
def LineOk (p : Params) (l : Line) : Prop :=
  l.signedHist = l.rawHist.map decodeRaw ∧ ∀ d, p.hdepth = some d → l.rawHist.length ≤ d

theorem LineOk.of_empty {p : Params} {l : Line} (h : l.rawHist = [] ∧ l.signedHist = []) : LineOk p l := by
  simp [LineOk, h]

theorem LineStep.ok {p : Params} {l m : Line} (h : LineStep p l m) (hl : LineOk p l) : LineOk p m := by
  obtain ⟨halign, hdepth⟩ := hl
  rcases h with ⟨hraw, hsigned⟩ | ⟨hroom, hraw, hsigned⟩
  · exact ⟨by rw [hraw, hsigned, halign], by rwa [hraw]⟩
  · refine ⟨by simp [hraw, hsigned, halign], fun d hd => ?_⟩
    have hlt : l.rawHist.length < d := by simpa [Params.full, hd] using hroom
    rw [hraw, List.length_append]
    exact hlt

theorem Effect.linesOk {s t : State} (h : Effect s t) (hs : ∀ l ∈ s.lines, LineOk s.params l) :
    ∀ l ∈ t.lines, LineOk t.params l := by
  intro m hm
  obtain ⟨l, hl, hstep⟩ := forall₂_mem_right h.lines hm
  rw [h.params]
  exact hstep.ok (hs l hl)

theorem Effect.nlines {s t : State} (h : Effect s t) : t.nlines = s.nlines := h.lines.length_eq.symm

theorem step_nlines {s t : State} (h : step s = .next t) : t.nlines = s.nlines := by
  rcases step_effects h with he | ⟨p, rest, dbg, ch, gain, c, k, -, -, -, -, rfl⟩
  · exact he.keeps (P := fun t => t.nlines = s.nlines) (fun _ _ he hk => he.nlines.trans hk) rfl
  · exact construct_nlines { s with port := rest } dbg c

theorem step_linesOk {s t : State} (h : step s = .next t) (hs : ∀ l ∈ s.lines, LineOk s.params l) :
    ∀ l ∈ t.lines, LineOk t.params l := by
  rcases step_effects h with he | ⟨p, rest, dbg, ch, gain, c, k, -, -, -, -, rfl⟩
  · exact he.keeps (P := fun s => ∀ l ∈ s.lines, LineOk s.params l) (fun _ _ he hk => he.linesOk hk) hs
  · exact fun l hl => .of_empty (construct_mem_lines hl)

/-! ### The position -/

/-- The fields of the invariant about the position and the result registers. -/
structure Placed (s : State) : Prop where
  poll_le : s.poll ≤ 20
  bit_le : s.bit ≤ 24
  tp_le : s.tp ≤ 3
  fits : phaseFits s.phase s.running = true
  built : s.running ≠ none → s.constructed = true
  result : s.ok = decide (s.cause = .ok)

theorem Inv.placed {s : State} (h : Inv s) : Placed s :=
  ⟨h.poll_le, h.bit_le, h.tp_le, h.fits, h.built, h.result⟩

/-- The command in progress in each phase (40_sequencer.md R110). -/
theorem phaseFits_iff (p : Phase) (r : Option Running) :
    phaseFits p r = true ↔
      (p = .idle ∧ r = none) ∨ (p = .preparing ∧ (r = some .prepare ∨ r = some .read)) ∨
      (p = .sampling ∧ r = some .read) ∨ (p = .finalizing ∧ r = some .read) ∨
      (p = .settingGain ∧ (r = some .read ∨ r = some .wrgain)) ∨ (p = .pulsing ∧ r = some .pulse) := by
  rcases r with _ | r
  · cases p <;> simp [phaseFits]
  · cases p <;> cases r <;> simp [phaseFits]

theorem Placed.port {s : State} (h : Placed s) (port : List Presented) : Placed { s with port := port } :=
  ⟨h.poll_le, h.bit_le, h.tp_le, h.fits, h.built, h.result⟩

theorem Placed.onlyBusyAnswer {s : State} (h : Placed s) : Placed (onlyBusyAnswer s) :=
  ⟨h.poll_le, h.bit_le, h.tp_le, h.fits, h.built, h.result⟩

theorem Placed.onlyResult {s : State} (h : Placed s) (c : Cause) : Placed (onlyResult s c) :=
  ⟨h.poll_le, h.bit_le, h.tp_le, h.fits, h.built, rfl⟩

/-- An operation that ends is well placed wherever it ends. -/
theorem placed_endOperation (s : State) (c : Cause) : Placed (s.endOperation c) where
  poll_le := Nat.le_of_lt_succ (Config.freePoll s.fresh).isLt
  bit_le := Nat.le_of_lt_succ (Config.freeBit s.fresh).isLt
  tp_le := Nat.le_of_lt_succ (Config.freeTp s.fresh).isLt
  fits := rfl
  built := fun h => absurd rfl h
  result := rfl

/-- Moves that keep the position keep it good. -/
theorem Placed.of_moves {s t : State} (h : Placed s) (hm : Moves s t) (hphase : t.phase = s.phase)
    (hrunning : t.running = s.running) (hpoll : t.poll = s.poll) (hbit : t.bit = s.bit) (htp : t.tp = s.tp) : Placed t where
  poll_le := hpoll ▸ h.poll_le
  bit_le := hbit ▸ h.bit_le
  tp_le := htp ▸ h.tp_le
  fits := by rw [hphase, hrunning]; exact h.fits
  built := by rw [hrunning, hm.frame.constructed]; exact h.built
  result := by rw [hm.frame.ok, hm.frame.cause]; exact h.result

theorem placed_accepted {i : Instr} {s : State} (h : Placed s) (hr : firstRefusal s i = none) : Placed (accepted i s) := by
  cases i with
  | construct dbg ch gain =>
    obtain ⟨c, hc⟩ := firstRefusal_construct hr
    rw [accepted, hc]
    refine Placed.onlyResult ?_ _
    rw [State.construct_eq]
    exact {
      poll_le := Nat.le_of_lt_succ (Config.freePoll s.fresh).isLt
      bit_le := Nat.le_of_lt_succ (Config.freeBit s.fresh).isLt
      tp_le := Nat.le_of_lt_succ (Config.freeTp s.fresh).isLt
      fits := h.fits
      built := fun _ => rfl
      result := h.result }
  | setcfg ch gain =>
    obtain ⟨c, hc⟩ := firstRefusal_setcfg hr
    rw [accepted, hc]
    exact ⟨h.poll_le, h.bit_le, h.tp_le, h.fits, h.built, rfl⟩
  | prepare | pulse | wrgain | read => exact placed_endOperation _ _
  | resett line => exact (h.of_moves (.single (.resett s line)) rfl rfl rfl rfl rfl).onlyResult _
  | sample line => exact (h.of_moves (.single (.sample s line)) rfl rfl rfl rfl rfl).onlyResult _
  | final line =>
    refine (h.of_moves (.single (.final s line)) ?_ ?_ ?_ ?_ ?_).onlyResult _ <;>
      exact State.final_keeps _ (fun _ _ _ => rfl) s line
  | decode raw => exact ⟨h.poll_le, h.bit_le, h.tp_le, h.fits, h.built, rfl⟩

theorem constructed_of_accept {i : Instr} {s : State} (hr : firstRefusal s i = none)
    (hi : ∀ dbg ch gain, i ≠ .construct dbg ch gain) : s.constructed = true := by
  by_contra hc
  rw [firstRefusal_notConstructed (by simpa using hc) hi] at hr
  cases hr

theorem placed_begun {i : Instr} {s : State} (h : Placed s) (hr : firstRefusal s i = none) : Placed (begun i s) := by
  cases i with
  | prepare | read =>
    have hc : s.constructed = true := constructed_of_accept hr (by simp)
    exact ⟨Nat.zero_le _, h.bit_le, h.tp_le, rfl, fun _ => hc, h.result⟩
  | pulse =>
    have hc : s.constructed = true := constructed_of_accept hr (by simp)
    exact ⟨h.poll_le, h.bit_le, h.tp_le, rfl, fun _ => hc, h.result⟩
  | wrgain =>
    have hc : s.constructed = true := constructed_of_accept hr (by simp)
    exact ⟨h.poll_le, h.bit_le, Nat.zero_le _, rfl, fun _ => hc, h.result⟩
  | construct | setcfg | resett | sample | final | decode => exact placed_accepted h hr

/-- An operation in progress after moves, at a position that fits it. -/
theorem Placed.progress {s t : State} (h : Placed s) (hm : Moves s t) (hrunning : t.running = s.running)
    (hfits : phaseFits t.phase s.running = true) (hpoll : t.poll ≤ 20) (hbit : t.bit ≤ 24) (htp : t.tp ≤ 3) : Placed t where
  poll_le := hpoll
  bit_le := hbit
  tp_le := htp
  fits := by rw [hrunning]; exact hfits
  built := by rw [hrunning, hm.frame.constructed]; exact h.built
  result := by rw [hm.frame.ok, hm.frame.cause]; exact h.result

theorem Placed.prepared_ok {s t : State} (h : Placed s) (hm : Moves s t) (hrunning : t.running = s.running)
    (hpoll : t.poll ≤ 20) (htp : t.tp ≤ 3) : Placed (t.prepared .ok) := by
  unfold State.prepared
  split
  · next hread =>
    have hr : s.running = some .read := hrunning.symm.trans hread.1
    refine h.progress (hm.trans t.startSampling_moves) ?_ ?_ ?_ ?_ ?_
    · rw [State.startSampling_running, hrunning]
    · rw [hr, State.startSampling_phase]; rfl
    · rwa [State.startSampling_poll]
    · simp
    · rwa [State.startSampling_tp]
  · exact placed_endOperation _ _

theorem placed_advance {s : State} (h : Placed s) : Placed (advance s) := by
  have hfits := h.fits
  cases hp : s.phase with
  | idle => rwa [advance_idle hp]
  | preparing =>
    by_cases hlt : s.poll < 20
    case neg => rw [advance_preparing_late hp hlt]; exact placed_endOperation _ _
    rw [advance_preparing hp hlt]
    split
    · exact h.prepared_ok s.pollOnce_moves (by simp) (by simp; omega) (by simp [h.tp_le])
    · split
      · refine h.progress (s.pollOnce_moves.tail (.wait _)) (by simp) ?_ (by simp; omega) (by simp [h.bit_le])
          (by simp [h.tp_le])
        simpa using hfits
      · exact placed_endOperation _ _
  | sampling =>
    have hread : phaseFits .finalizing s.running = true := by
      rw [hp, phaseFits_iff] at hfits
      rw [phaseFits_iff]
      simpa using hfits
    by_cases hlt : s.bit < 24
    case neg =>
      rw [advance_sampling_late hp hlt]
      exact h.progress (s.goto_moves _) rfl hread h.poll_le h.bit_le h.tp_le
    rw [advance_sampling hp hlt]
    have hm : Moves s s.pulse.2.sampleLines := (Move.pulse s).moves.trans (State.sampleLines_moves _)
    split
    · exact placed_endOperation _ _
    · split
      · refine h.progress hm (by simp) ?_ (by simp [h.poll_le]) (by simp; omega) (by simp [h.tp_le])
        simpa using hfits
      · exact h.progress (hm.trans (State.goto_moves _ _)) (by simp) hread (by simp [h.poll_le]) (by simp; omega)
          (by simp [h.tp_le])
  | finalizing =>
    have hread : phaseFits .settingGain s.running = true := by
      rw [hp, phaseFits_iff] at hfits
      rw [phaseFits_iff]
      exact .inr (.inr (.inr (.inr (.inl ⟨rfl, .inl (by simpa using hfits)⟩))))
    rw [advance_finalizing hp]
    exact h.progress (Moves.position s.finalizeLines_moves _ _ _ _ _) (by simp) hread (by simp [h.poll_le])
      (by simp [h.bit_le]) (Nat.zero_le _)
  | settingGain =>
    by_cases hlt : s.tp < s.cfg.pulses
    case neg => rw [advance_settingGain_late hp hlt]; exact placed_endOperation _ _
    rw [advance_settingGain hp hlt]
    split
    · exact placed_endOperation _ _
    · split
      · have := s.cfg.pulses_le
        refine h.progress (Moves.position (Move.pulse s).moves _ _ _ _ _) (by simp) ?_ (by simp [h.poll_le])
          (by simp [h.bit_le]) (show s.tp + 1 ≤ 3 by omega)
        simpa using hfits
      · exact placed_endOperation _ _
  | pulsing => rw [advance_pulsing hp]; exact placed_endOperation _ _

theorem placed_exec {i : Instr} {s t : State} (h : Placed s) (ht : exec i s = .next t) : Placed t := by
  rcases exec_next ht with ⟨-, rfl⟩ | ⟨-, c, -, rfl⟩ | ⟨-, hr, rfl⟩
  · exact h.onlyBusyAnswer
  · exact h.onlyResult c
  · exact placed_accepted h hr

theorem placed_start {i : Instr} {s t : State} (h : Placed s) (hp : s.phase = .idle) (ht : start i s = .next t) :
    Placed t := by
  rcases start_next hp ht with ⟨c, -, rfl⟩ | ⟨hr, rfl⟩
  · exact h.onlyResult c
  · exact placed_begun h hr

theorem step_placed {s t : State} (h : Placed s) (ht : step s = .next t) : Placed t := by
  rcases step_next ht with ⟨-, rfl⟩ | rfl | ⟨p, rest, hp, -, rfl | ⟨i, -, ht | ht⟩⟩
  · obtain ⟨port, hpr | hpr⟩ := s.progress_cases <;> rw [hpr]
    · exact placed_advance (h.port port)
    · exact (h.port port).onlyBusyAnswer
  · exact h
  · exact (h.port rest).onlyResult _
  · exact placed_exec (h.port rest) ht
  · exact placed_start (h.port rest) hp ht

/-- Settles O51: the histories by `step_linesOk`, the clock and the trace by `step_traced`, the rest by `step_placed`. -/
theorem stepKeepsTheInvariant : Obligations.StepKeepsTheInvariant := by
  intro s t h ht
  have hlines := step_linesOk ht fun l hl => ⟨h.aligned l hl, fun d hd => h.depth d hd l hl⟩
  have hplaced := step_placed h.placed ht
  have hn := step_nlines ht
  obtain ⟨es, htrace, hshape, hclk⟩ := step_traced ht
  exact {
    lines_pos := h.lines_pos.trans_eq hn.symm
    lines_le := hn.trans_le h.lines_le
    aligned := fun l hl => (hlines l hl).1
    depth := fun d hd l hl => (hlines l hl).2 d hd
    poll_le := hplaced.poll_le
    bit_le := hplaced.bit_le
    tp_le := hplaced.tp_le
    fits := hplaced.fits
    built := hplaced.built
    result := hplaced.result
    clock := by
      rw [htrace, clockWritten_append, hclk]
      intro hwritten
      split
      · rfl
      · next hes => exact h.clock (by simpa [hes] using hwritten)
    shaped := by
      rw [htrace]
      exact pulseShaped_append h.shaped hshape }

end Sys2Proof.Machine
end

section
/-! The turns of an operation make up the whole instruction: one lemma per loop says that its turns lead where the loop leads
(40_sequencer.md R104, R110, R111; log 10). -/

namespace Sys2Proof.Machine

/-! ### The loops, one round at a time -/

theorem prepareLoop_succ (n : Nat) (s : State) :
    prepareLoop (n + 1) s = if pollReady s.env s.nlines 0 then (.ok, s.pollOnce.2) else prepareLoop n s.pollOnce.2.wait := by
  rw [prepareLoop, State.pollOnce_fst]

theorem dataLoop_succ (n : Nat) (s : State) :
    dataLoop (n + 1) s =
      if s.params.trips (s.env.time 0) then (.timingViolation, s.pulse.2) else dataLoop n s.pulse.2.sampleLines := by
  rw [dataLoop]
  cases ht : s.params.trips (s.env.time 0) with
  | true => rw [State.pulse_slow ht]; rfl
  | false => rw [State.pulse_passed ht]; rfl

theorem wrgainLoop_succ (n : Nat) (s : State) :
    wrgainLoop (n + 1) s =
      if s.params.trips (s.env.time 0) then (.timingViolation, s.pulse.2)
      else wrgainLoop n { s.pulse.2 with tp := s.tp + 1 } := by
  rw [wrgainLoop]
  cases ht : s.params.trips (s.env.time 0) with
  | true => rw [State.pulse_slow ht]; rfl
  | false => rw [State.pulse_passed ht, ← State.pulse_tp]; rfl

theorem prepareLoop_running (n : Nat) (s : State) : (prepareLoop n s).2.running = s.running := by
  induction n generalizing s with
  | zero => rfl
  | succ n ih =>
    rw [prepareLoop_succ]
    split
    · simp
    · simp [ih]

/-! ### READ by its parts -/

theorem State.read_of_notReady {s u : State} {c : Cause} (h : s.prepare = (c, u)) (hc : c ≠ .ok) : s.read = (c, u) := by
  rw [State.read, h]
  cases c with
  | ok => exact absurd rfl hc
  | notReady | timingViolation | configError | busy | illegalCommand | historyOverflow | notConstructed => rfl

theorem State.read_of_slowData {s u v : State} {c : Cause} (h : s.prepare = (.ok, u))
    (hv : dataLoop Config.dataBits u.startSampling = (c, v)) (hc : c ≠ .ok) : s.read = (c, v) := by
  rw [State.read, h]
  dsimp only
  rw [hv]
  cases c with
  | ok => exact absurd rfl hc
  | notReady | timingViolation | configError | busy | illegalCommand | historyOverflow | notConstructed => rfl

theorem State.read_of_data {s u v : State} (h : s.prepare = (.ok, u))
    (hv : dataLoop Config.dataBits u.startSampling = (.ok, v)) :
    s.read = (v.finalizeLines.goto .settingGain).wrgain := by
  rw [State.read, h]
  dsimp only
  rw [hv]

/-! ### Turns -/

/-- At most `n` turns lead from `s` to `t`. -/
def TurnsTo (n : Nat) (s t : State) : Prop := ∃ k ≤ n, advanceN k s = t

theorem advanceN_add (m n : Nat) (s : State) : advanceN (m + n) s = advanceN n (advanceN m s) := by
  induction m generalizing s with
  | zero => rw [Nat.zero_add]; rfl
  | succ m ih => rw [Nat.succ_add]; exact ih (advance s)

theorem TurnsTo.trans {m n : Nat} {s t u : State} (h : TurnsTo m s t) (h' : TurnsTo n t u) : TurnsTo (m + n) s u := by
  obtain ⟨j, hj, rfl⟩ := h
  obtain ⟨k, hk, rfl⟩ := h'
  exact ⟨j + k, Nat.add_le_add hj hk, advanceN_add j k s⟩

theorem TurnsTo.mono {m n : Nat} {s t : State} (h : TurnsTo m s t) (hmn : m ≤ n) : TurnsTo n s t := by
  obtain ⟨k, hk, ht⟩ := h
  exact ⟨k, hk.trans hmn, ht⟩

theorem TurnsTo.turn {s t : State} (h : advance s = t) (n : Nat) : TurnsTo (n + 1) s t := ⟨1, Nat.le_add_left 1 n, h⟩

/-- Where the turns end in Idle, more of them change nothing. -/
theorem TurnsTo.advanceN_eq {n m : Nat} {s t : State} (h : TurnsTo n s t) (ht : t.phase = .idle) (hnm : n ≤ m) :
    advanceN m s = t := by
  obtain ⟨k, hk, rfl⟩ := h
  obtain ⟨j, rfl⟩ := Nat.exists_eq_add_of_le (hk.trans hnm)
  rw [advanceN_add, advanceN_idle j ht]

/-- Preparing: the polls left, then what follows PREPARE. -/
theorem turnsTo_prepared (n : Nat) (s : State) (hp : s.phase = .preparing) (hpoll : s.poll + (n + 1) = 20) :
    TurnsTo (n + 1) s ((prepareLoop (n + 1) s).2.prepared (prepareLoop (n + 1) s).1) := by
  induction n generalizing s with
  | zero =>
    refine .turn ?_ 0
    rw [advance_preparing hp (by omega), prepareLoop_succ]
    split
    · rfl
    · rw [if_neg (by omega)]
      exact (State.prepared_notReady _).symm
  | succ n ih =>
    have hturn := advance_preparing hp (s := s) (by omega)
    rw [prepareLoop_succ]
    split
    · next hready => exact .turn (hturn.trans (if_pos hready)) _
    · next hfailed =>
      rw [if_neg hfailed, if_pos (by omega)] at hturn
      rw [Nat.add_comm (n + 1) 1]
      exact (TurnsTo.turn hturn 0).trans (ih _ (by simp [hp]) (by simp; omega))

/-- What follows READ's data loop: Finalizing, or the end of the operation. -/
def afterData (c : Cause) (s : State) : State := if c = .ok then s.goto .finalizing else s.endOperation c

/-- Sampling: the data pulses left, then what follows them. -/
theorem turnsTo_afterData (n : Nat) (s : State) (hp : s.phase = .sampling) (hbit : s.bit + (n + 1) = 24) :
    TurnsTo (n + 1) s (afterData (dataLoop (n + 1) s).1 (dataLoop (n + 1) s).2) := by
  induction n generalizing s with
  | zero =>
    refine .turn ?_ 0
    rw [advance_sampling hp (by omega), dataLoop_succ]
    split
    · rfl
    · rw [if_neg (by omega)]
      rfl
  | succ n ih =>
    have hturn := advance_sampling hp (s := s) (by omega)
    rw [dataLoop_succ]
    split
    · next hslow => exact .turn (hturn.trans (if_pos hslow)) _
    · next hpass =>
      rw [if_neg hpass, if_pos (by omega)] at hturn
      rw [Nat.add_comm (n + 1) 1]
      exact (TurnsTo.turn hturn 0).trans (ih _ (by simp [hp]) (by simp; omega))

/-- SettingGain: the trailing pulses left, then the end of the operation. -/
theorem turnsTo_gainSet (n : Nat) (s : State) (hp : s.phase = .settingGain) (htp : s.tp + (n + 1) = s.cfg.pulses) :
    TurnsTo (n + 1) s ((wrgainLoop (n + 1) s).2.endOperation (wrgainLoop (n + 1) s).1) := by
  induction n generalizing s with
  | zero =>
    refine .turn ?_ 0
    rw [advance_settingGain hp (by omega), wrgainLoop_succ]
    split
    · rfl
    · rw [if_neg (by omega)]
      rfl
  | succ n ih =>
    have hturn := advance_settingGain hp (s := s) (by omega)
    have hcfg : s.pulse.2.cfg = s.cfg := (Move.pulse s).frame.cfg
    rw [wrgainLoop_succ]
    split
    · next hslow => exact .turn (hturn.trans (if_pos hslow)) _
    · next hpass =>
      rw [if_neg hpass, if_pos (by omega)] at hturn
      rw [Nat.add_comm (n + 1) 1]
      exact (TurnsTo.turn hturn 0).trans (ih _ (by simp [hp]) (by simp only [hcfg]; omega))

/-- WRGAIN's turns, whoever began them. -/
theorem turnsTo_wrgain (s : State) (hp : s.phase = .settingGain) :
    TurnsTo 3 { s with tp := 0 } (s.wrgain.2.endOperation s.wrgain.1) := by
  obtain ⟨n, hn⟩ := Nat.exists_eq_succ_of_ne_zero (Nat.ne_of_gt s.cfg.pulses_pos)
  have hle := s.cfg.pulses_le
  rw [State.wrgain, hn]
  exact (turnsTo_gainSet n { s with tp := 0 } hp (by simp [hn])).mono (by omega)

theorem turnsTo_prepare (s : State) (hp : s.phase = .preparing) :
    TurnsTo 20 s.startPolling (s.prepare.2.prepared s.prepare.1) :=
  turnsTo_prepared 19 s.startPolling hp rfl

theorem turnsTo_data (s : State) :
    TurnsTo 24 s.startSampling
      (afterData (dataLoop Config.dataBits s.startSampling).1 (dataLoop Config.dataBits s.startSampling).2) :=
  turnsTo_afterData 23 s.startSampling (by simp) (by simp)

/-- READ after its acceptance: ready wait, data pulses, Finalizing, trailing pulses. -/
theorem turnsTo_read (s : State) (hp : s.phase = .preparing) (hr : s.running = some .read) :
    TurnsTo 48 s.startPolling (s.read.2.endOperation s.read.1) := by
  have hprep := turnsTo_prepare s hp
  have hrun : s.prepare.2.running = some .read := (prepareLoop_running _ _).trans hr
  rcases hu : s.prepare with ⟨c, u⟩
  rw [hu] at hprep hrun
  by_cases hc : c = .ok
  case neg =>
    rw [State.read_of_notReady hu hc]
    rw [State.prepared, if_neg (by simp [hc])] at hprep
    exact hprep.mono (by decide)
  subst hc
  rw [State.prepared, if_pos ⟨hrun, rfl⟩] at hprep
  have hdata := turnsTo_data u
  rcases hv : dataLoop Config.dataBits u.startSampling with ⟨c, v⟩
  rw [hv] at hdata
  by_cases hc : c = .ok
  case neg =>
    rw [State.read_of_slowData hu hv hc]
    rw [afterData, if_neg hc] at hdata
    exact (hprep.trans hdata).mono (by decide)
  subst hc
  rw [State.read_of_data hu hv]
  have hfin : advance (v.goto .finalizing) = { v.finalizeLines.goto .settingGain with tp := 0 } := advance_finalizing rfl
  exact ((hprep.trans hdata).trans (.turn hfin 0)).trans (turnsTo_wrgain _ rfl)

/-- The turns of an accepted instruction, from its beginning, lead to what it does as a whole. -/
theorem advanceN_begun {i : Instr} {s : State} (hp : s.phase = .idle) (hr : firstRefusal s i = none) :
    advanceN maxTurns (begun i s) = accepted i s := by
  have hidle : (accepted i s).phase = .idle := by
    obtain ⟨u, -, he⟩ := accepted_cases hp hr
    generalize accepted i s = t at he
    cases he with
    | inIdle c hu => exact hu
    | toIdle c => rfl
  cases i with
  | prepare =>
    have h := turnsTo_prepare (s.enter .prepare .preparing) rfl
    have hrun : (s.enter .prepare .preparing).prepare.2.running = some .prepare := prepareLoop_running _ _
    rw [State.prepared, if_neg (by simp [hrun])] at h
    exact h.advanceN_eq hidle (by decide)
  | pulse => exact (TurnsTo.turn (advance_pulsing rfl) 0).advanceN_eq hidle (by decide)
  | wrgain => exact (turnsTo_wrgain (s.enter .wrgain .settingGain) rfl).advanceN_eq hidle (by decide)
  | read => exact (turnsTo_read (s.enter .read .preparing) rfl rfl).advanceN_eq hidle (by decide)
  | construct | setcfg | resett | sample | final | decode => exact advanceN_idle _ hidle

/-- Settles O37: a refusal is the same for both, and `advanceN_begun` is the rest. -/
theorem turnsMakeUpTheWholeInstruction : Obligations.TurnsMakeUpTheWholeInstruction := by
  intro i s hp
  cases hr : firstRefusal s i with
  | some c => exact ⟨_, _, start_of_refusal hp hr, exec_of_refusal hp hr, advanceN_idle _ hp⟩
  | none => exact ⟨_, _, start_of_accept hp hr, exec_of_accept hp hr, advanceN_begun hp hr⟩

end Sys2Proof.Machine
end

section
/-! The outcomes of READ together: every READ meets the hypotheses of one of its exits, so its pulses and events can be counted
(40_sequencer.md R105, R106, R110). -/

namespace Sys2Proof.Machine

/-- Among the first `n` numbers none has the property, or one is the first. -/
theorem none_or_first (p : Nat → Bool) (n : Nat) :
    (∀ j < n, p j = false) ∨ ∃ k < n, (∀ j < k, p j = false) ∧ p k = true := by
  induction n with
  | zero => exact .inl fun j hj => absurd hj (Nat.not_lt_zero j)
  | succ n ih =>
    rcases ih with hnone | ⟨k, hk, hfirst⟩
    · cases hn : p n with
      | true => exact .inr ⟨n, Nat.lt_succ_self n, hnone, hn⟩
      | false =>
        refine .inl fun j hj => ?_
        rcases Nat.lt_succ_iff_lt_or_eq.mp hj with h | rfl
        · exact hnone j h
        · exact hn
    · exact .inr ⟨k, Nat.lt_succ_of_lt hk, hfirst⟩

/-- Which exit a READ takes, by its draws: E1, E2 at data pulse `k`, E3 at trailing pulse `j`, or E4 (40_sequencer.md R105). -/
theorem read_exits (s : State) :
    (∀ j < 20, pollReady s.env s.nlines j = false) ∨
    ∃ q < 20, (∀ j < q, pollReady s.env s.nlines j = false) ∧ pollReady s.env s.nlines q = true ∧
      ((∃ k < 24, (∀ m < k, s.params.trips (s.env.time m) = false) ∧ s.params.trips (s.env.time k) = true) ∨
        (∃ j < s.cfg.pulses, (∀ m < 24 + j, s.params.trips (s.env.time m) = false) ∧
          s.params.trips (s.env.time (24 + j)) = true) ∨
        ∀ m < 24 + s.cfg.pulses, s.params.trips (s.env.time m) = false) := by
  rcases none_or_first (pollReady s.env s.nlines) 20 with hnone | ⟨q, hq, hfailed, hready⟩
  · exact .inl hnone
  refine .inr ⟨q, hq, hfailed, hready, ?_⟩
  rcases none_or_first (fun m => s.params.trips (s.env.time m)) (24 + s.cfg.pulses) with hpass | ⟨k, hk, hpass, hslow⟩
  · exact .inr (.inr hpass)
  by_cases hdata : k < 24
  · exact .inl ⟨k, hdata, hpass, hslow⟩
  · obtain ⟨j, rfl⟩ := Nat.exists_eq_add_of_le (Nat.not_lt.mp hdata)
    exact .inr (.inl ⟨j, Nat.add_lt_add_iff_left.mp hk, hpass, hslow⟩)

/-- The result and the events of a READ, by its exit. -/
inductive ReadOutcome (s : State) : Cause → List Event → Prop
  | notReady : ReadOutcome s .notReady ([.write .low] ++ failedPolls s.env s.nlines 20)
  | slowData (q k : Nat) (hq : q < 20) (hk : k < 24) :
    ReadOutcome s .timingViolation
      (readyTrace s.env s.nlines q ++ dataGroups s.env s.nlines ((q + 1) * s.nlines) k ++ pulseEvents (s.env.time k))
  | slowTrailing (q j : Nat) (hq : q < 20) (hj : j < s.cfg.pulses) :
    ReadOutcome s .timingViolation
      (readyTrace s.env s.nlines q ++ dataGroups s.env s.nlines ((q + 1) * s.nlines) 24 ++ barePulses s.env 24 (j + 1))
  | success (q : Nat) (hq : q < 20) :
    ReadOutcome s .ok
      (readyTrace s.env s.nlines q ++ dataGroups s.env s.nlines ((q + 1) * s.nlines) 24 ++ barePulses s.env 24 s.cfg.pulses)

theorem firstRefusal_read {s : State} (h : firstRefusal s .read = none) : s.constructed = true ∧ s.anyFull = false := by
  have hc : s.constructed = true := constructed_of_accept h (by simp)
  exact ⟨hc, by simpa [firstRefusal, hc] using h⟩

/-- What a READ that is accepted ends with, adds to the trace, and appends: to all histories one entry, or to none. -/
theorem exec_read_outcome {s : State} (hs : Ready s) (hfull : s.anyFull = false) :
    ∃ t c es, exec .read s = .next t ∧ t.ok = decide (c = .ok) ∧ t.cause = c ∧ t.trace = s.trace ++ es ∧
      ReadOutcome s c es ∧
      ∃ grown ≤ 1, t.lines.map (fun l => l.rawHist.length) = s.lines.map (fun l => l.rawHist.length + grown) := by
  have hkept (f : Nat → Line → Line) (grown : Nat) (h : ∀ i l, (f i l).rawHist.length = l.rawHist.length + grown) :
      (s.lines.mapIdx f).map (fun l => l.rawHist.length) = s.lines.map (fun l => l.rawHist.length + grown) := by
    apply List.ext_getElem?
    intro i
    simp [List.getElem?_mapIdx, Function.comp_def, h]
  rcases read_exits s with hfailed | ⟨q, hq, hfailed, hready, ⟨k, hk, hpass, hslow⟩ | ⟨j, hj, hpass, hslow⟩ | hpass⟩
  · obtain ⟨t, ht, ⟨-, -, hok, hcause, -⟩, -, -, htrace, -, hlines, -⟩ := readEndsWhenNeverReady s hs hfull hfailed
    exact ⟨t, _, _, ht, hok, hcause, htrace.trans (List.append_assoc _ _ _), .notReady, 0, by decide, by rw [hlines]; rfl⟩
  · obtain ⟨t, ht, ⟨-, -, hok, hcause, -⟩, -, -, htrace, hlines, -⟩ :=
      readAbandonsTheCycleAtASlowDataPulse s q k hs hfull hq hfailed hready hk hpass hslow
    refine ⟨t, _, _, ht, hok, hcause, ?_, .slowData q k hq hk, 0, by decide, hlines ▸ hkept _ _ fun _ _ => rfl⟩
    simpa only [List.append_assoc] using htrace
  · obtain ⟨t, ht, ⟨-, -, hok, hcause, -⟩, -, -, htrace, hlines, -⟩ :=
      readKeepsTheEntriesWhenATrailingPulseIsSlow s q j hs hfull hq hfailed hready hj hpass hslow
    refine ⟨t, _, _, ht, hok, hcause, ?_, .slowTrailing q j hq hj, 1, by decide,
      hlines ▸ hkept _ _ fun _ _ => List.length_append⟩
    simpa only [List.append_assoc] using htrace
  · obtain ⟨t, ht, ⟨-, -, hok, hcause, -⟩, -, -, htrace, hlines, -⟩ :=
      readAppendsOneSamplePerLine s q hs hfull hq hfailed hready hpass
    refine ⟨t, _, _, ht, hok, hcause, ?_, .success q hq, 1, by decide, hlines ▸ hkept _ _ fun _ _ => List.length_append⟩
    simpa only [List.append_assoc] using htrace

/-! ### Counting -/

@[simp] theorem pulseCount_append (es fs : List Event) : pulseCount (es ++ fs) = pulseCount es + pulseCount fs :=
  List.countP_append

@[simp] theorem pulseCount_readEvents (d : Draws) (n base : Nat) : pulseCount (readEvents d n base) = 0 := by
  simp [pulseCount, readEvents]

@[simp] theorem pulseCount_writeLow (es : List Event) : pulseCount (.write .low :: es) = pulseCount es := by
  simp [pulseCount]

@[simp] theorem pulseCount_wait : pulseCount [.wait] = 0 := rfl

@[simp] theorem pulseCount_pulseEvents (e : Nat) : pulseCount (pulseEvents e) = 1 := rfl

@[simp] theorem pulseCount_failedPolls (d : Draws) (n q : Nat) : pulseCount (failedPolls d n q) = 0 := by
  induction q with
  | zero => rfl
  | succ q ih =>
    rw [failedPolls, flatMap_range_succ, pulseCount_append, ← failedPolls, ih]
    simp

@[simp] theorem pulseCount_readyTrace (d : Draws) (n q : Nat) : pulseCount (readyTrace d n q) = 0 := by
  simp [readyTrace]

@[simp] theorem pulseCount_dataGroups (d : Draws) (n base k : Nat) : pulseCount (dataGroups d n base k) = k := by
  induction k with
  | zero => rfl
  | succ k ih =>
    rw [dataGroups, flatMap_range_succ, pulseCount_append, ← dataGroups, ih]
    simp

@[simp] theorem pulseCount_barePulses (d : Draws) (t k : Nat) : pulseCount (barePulses d t k) = k := by
  induction k with
  | zero => rfl
  | succ k ih =>
    rw [barePulses, flatMap_range_succ, pulseCount_append, ← barePulses, ih]
    simp

theorem exec_read_full {s : State} (hs : Ready s) (hfull : s.anyFull = true) :
    exec .read s = .next (onlyResult s .historyOverflow) :=
  exec_of_refusal hs.2 (by simp [firstRefusal, hs.1, hfull])

/-- Settles O34: the pulses of each outcome. -/
theorem readPulseCounts : Obligations.ReadPulseCounts := by
  intro s hs
  cases hfull : s.anyFull with
  | true => exact ⟨_, exec_read_full hs hfull, by simp [onlyResult]⟩
  | false =>
    obtain ⟨t, c, es, ht, hok, hcause, htrace, hout, -⟩ := exec_read_outcome hs hfull
    refine ⟨t, ht, ?_⟩
    rw [hok, hcause, htrace]
    cases hout with
    | notReady => simp
    | slowData q k hq hk => simp; omega
    | slowTrailing q j hq hj => simp; omega
    | success q hq => simp

@[simp] theorem length_readEvents (d : Draws) (n base : Nat) : (readEvents d n base).length = n := by
  simp [readEvents]

@[simp] theorem length_pulseEvents (e : Nat) : (pulseEvents e).length = 3 := rfl

@[simp] theorem length_failedPolls (d : Draws) (n q : Nat) : (failedPolls d n q).length = q * (n + 1) := by
  simp [failedPolls, List.length_flatMap]

@[simp] theorem length_readyTrace (d : Draws) (n q : Nat) : (readyTrace d n q).length = 1 + q * (n + 1) + n := by
  simp [readyTrace]
  omega

@[simp] theorem length_dataGroups (d : Draws) (n base k : Nat) : (dataGroups d n base k).length = k * (3 + n) := by
  simp [dataGroups, List.length_flatMap]

@[simp] theorem length_barePulses (d : Draws) (t k : Nat) : (barePulses d t k).length = k * 3 := by
  simp [barePulses, List.length_flatMap]

theorem ReadOutcome.length_le {s : State} {c : Cause} {es : List Event} (h : ReadOutcome s c es) :
    es.length ≤ 1 + 20 * (s.nlines + 1) + 24 * (3 + s.nlines) + 3 * 3 := by
  have hpulses := s.cfg.pulses_le
  cases h with
  | notReady => simp; omega
  | slowData q k hq hk =>
    have hpolls := Nat.mul_le_mul_right (s.nlines + 1) (Nat.succ_le_of_lt hq)
    have hdata := Nat.mul_le_mul_right (3 + s.nlines) (Nat.succ_le_of_lt hk)
    simp [Nat.succ_mul] at *
    omega
  | slowTrailing q j hq hj =>
    have hpolls := Nat.mul_le_mul_right (s.nlines + 1) (Nat.succ_le_of_lt hq)
    simp [Nat.succ_mul] at *
    omega
  | success q hq =>
    have hpolls := Nat.mul_le_mul_right (s.nlines + 1) (Nat.succ_le_of_lt hq)
    simp [Nat.succ_mul] at *
    omega

/-- Settles O38: `turnsLeft` falls with every turn from at most 48, and each outcome of READ is short enough. -/
theorem everyOperationEnds : Obligations.EveryOperationEnds := by
  refine ⟨fun s => advanceN_phase maxTurns s (turnsLeft_le s), fun s t h => ?_⟩
  rcases exec_next h with ⟨-, rfl⟩ | ⟨-, c, -, rfl⟩ | ⟨hp, hr, -⟩
  · exact Nat.le_add_right _ _
  · exact Nat.le_add_right _ _
  · obtain ⟨hc, hfull⟩ := firstRefusal_read hr
    obtain ⟨t', c, es, ht, -, -, htrace, hout, -⟩ := exec_read_outcome ⟨hc, hp⟩ hfull
    rw [h] at ht
    cases ht
    rw [htrace, List.length_append]
    exact Nat.add_le_add_left hout.length_le _

/-! ### The lengths of the histories -/

/-- The lengths of the raw histories. -/
def State.lengths (s : State) : List Nat := s.lines.map fun l => l.rawHist.length

theorem equalLengths_iff (s : State) : EqualLengths s ↔ ∀ a ∈ s.lengths, ∀ b ∈ s.lengths, a = b := by
  simp [EqualLengths, State.lengths]

theorem prepareLoop_lines (n : Nat) (s : State) : (prepareLoop n s).2.lines = s.lines := by
  induction n generalizing s with
  | zero => rfl
  | succ n ih =>
    rw [prepareLoop_succ]
    split
    · rw [State.pollOnce_eq]
    · rw [ih, State.wait_lines, State.pollOnce_eq]

theorem wrgainLoop_lines (n : Nat) (s : State) : (wrgainLoop n s).2.lines = s.lines := by
  induction n generalizing s with
  | zero => rfl
  | succ n ih =>
    rw [wrgainLoop_succ]
    split
    · rw [State.pulse_eq]
    · rw [ih, State.pulse_eq]

/-- An accepted instruction but FINAL and CONSTRUCT adds one number to every length. -/
theorem accepted_lengths {i : Instr} {s : State} (hp : s.phase = .idle) (hr : firstRefusal s i = none)
    (hfinal : ∀ line, i ≠ .final line) (hconstruct : ∀ dbg ch gain, i ≠ .construct dbg ch gain) :
    ∃ grown, (accepted i s).lengths = s.lengths.map (· + grown) := by
  have hsame {t : State} (h : t.lengths = s.lengths) : ∃ grown, t.lengths = s.lengths.map (· + grown) :=
    ⟨0, h.trans (List.map_id _).symm⟩
  have hlines {t : State} (h : t.lines = s.lines) : t.lengths = s.lengths := by rw [State.lengths, h]; rfl
  cases i with
  | construct dbg ch gain => exact absurd rfl (hconstruct dbg ch gain)
  | final line => exact absurd rfl (hfinal line)
  | setcfg ch gain =>
    obtain ⟨c, hc⟩ := firstRefusal_setcfg hr
    rw [accepted, hc]
    exact hsame rfl
  | prepare => exact hsame (hlines (prepareLoop_lines _ _))
  | pulse => exact hsame (hlines (congrArg (fun r => r.2.lines) (State.pulse_eq _)))
  | wrgain => exact hsame (hlines (wrgainLoop_lines _ _))
  | read =>
    obtain ⟨hc, hfull⟩ := firstRefusal_read hr
    obtain ⟨t, c, es, ht, -, -, -, -, grown, -, hgrown⟩ := exec_read_outcome ⟨hc, hp⟩ hfull
    rw [exec_of_accept hp hr] at ht
    cases ht
    exact ⟨grown, hgrown.trans (by simp [State.lengths])⟩
  | resett line =>
    exact hsame (map_modify_eq (f := fun l : Line => { l with acc := 0 }) (g := fun l : Line => l.rawHist.length) (fun _ => rfl) _ _)
  | sample line =>
    exact hsame (map_modify_eq (f := fun l : Line => { l with acc := shiftIn l.acc (s.env.level 0) })
      (g := fun l : Line => l.rawHist.length) (fun _ => rfl) _ _)
  | decode raw => exact hsame rfl

/-- Settles O35: equal lengths stay equal when the same number is added to each, and a new controller has all of them 0. -/
theorem historiesGrowTogether : Obligations.HistoriesGrowTogether := by
  intro i s t hfinal hs h
  rcases exec_next h with ⟨-, rfl⟩ | ⟨-, c, -, rfl⟩ | ⟨hp, hr, rfl⟩
  · exact hs
  · exact hs
  · by_cases hi : ∀ dbg ch gain, i ≠ .construct dbg ch gain
    · obtain ⟨grown, hgrown⟩ := accepted_lengths hp hr hfinal hi
      rw [equalLengths_iff] at hs ⊢
      rw [hgrown]
      intro a ha b hb
      obtain ⟨a', ha', rfl⟩ := List.mem_map.mp ha
      obtain ⟨b', hb', rfl⟩ := List.mem_map.mp hb
      rw [hs a' ha' b' hb']
    · push Not at hi
      obtain ⟨dbg, ch, gain, rfl⟩ := hi
      obtain ⟨c, hc⟩ := firstRefusal_construct hr
      rw [accepted, hc]
      intro l hl m hm
      rw [(construct_lines_empty (s := s) (dbg := dbg) (c := c) hl).1,
        (construct_lines_empty (s := s) (dbg := dbg) (c := c) hm).1]

end Sys2Proof.Machine
end

section
/-! What does not steer an operation: a map of states that commutes with the parts of a turn commutes with the turn. Two such maps
are the one that forgets the debug flag and the diagnostics, and the one that gives the block another port and earlier answers
(60_exceptions.md R196, R216). -/

namespace Sys2Proof.Machine

/-- The map keeps what a turn reads, and commutes with what it does. -/
structure Commutes (f : State → State) : Prop where
  phase (s : State) : (f s).phase = s.phase
  running (s : State) : (f s).running = s.running
  poll (s : State) : (f s).poll = s.poll
  bit (s : State) : (f s).bit = s.bit
  tp (s : State) : (f s).tp = s.tp
  cfg (s : State) : (f s).cfg = s.cfg
  nlines (s : State) : (f s).nlines = s.nlines
  wait (s : State) : (f s).wait = f s.wait
  goto (s : State) (p : Phase) : (f s).goto p = f (s.goto p)
  setTp (s : State) (n : Nat) : { f s with tp := n } = f { s with tp := n }
  endOperation (s : State) (c : Cause) : (f s).endOperation c = f (s.endOperation c)
  pollOnce (s : State) : (f s).pollOnce = (s.pollOnce.1, f s.pollOnce.2)
  pulse (s : State) : (f s).pulse = (s.pulse.1, f s.pulse.2)
  startSampling (s : State) : (f s).startSampling = f s.startSampling
  sampleLines (s : State) : (f s).sampleLines = f s.sampleLines
  final (s : State) (i : Nat) : (f s).final i = f (s.final i)

section

variable {f : State → State} (hf : Commutes f)
include hf

theorem Commutes.prepared (s : State) (c : Cause) : (f s).prepared c = f (s.prepared c) := by
  unfold State.prepared
  rw [hf.running, hf.startSampling, hf.endOperation]
  split <;> rfl

theorem Commutes.finalizeLines (s : State) : (f s).finalizeLines = f s.finalizeLines := by
  have key (is : List Nat) (s : State) : is.foldl State.final (f s) = f (is.foldl State.final s) := by
    induction is generalizing s with
    | nil => rfl
    | cons i is ih => rw [List.foldl_cons, hf.final, ih]; rfl
  unfold State.finalizeLines State.eachLine
  rw [hf.goto, hf.nlines, key]

/-- The turn commutes with the map, phase by phase. -/
theorem Commutes.advance (s : State) : advance (f s) = f (advance s) := by
  unfold Machine.advance
  rw [hf.phase]
  split
  · rfl
  · unfold State.advancePreparing
    rw [hf.poll, hf.pollOnce, hf.prepared]
    dsimp only
    rw [hf.wait, hf.poll, hf.prepared, hf.prepared]
    split
    · split
      · rfl
      · split <;> rfl
    · rfl
  · unfold State.advanceSampling
    rw [hf.bit, hf.pulse, hf.goto]
    rcases s.pulse with ⟨c, u⟩
    split
    · cases c with
      | ok =>
        dsimp only
        rw [hf.sampleLines, hf.bit, hf.goto]
        split <;> rfl
      | notReady | timingViolation | configError | busy | illegalCommand | historyOverflow | notConstructed =>
        exact hf.endOperation u _
    · rfl
  · unfold State.advanceFinalizing
    rw [hf.finalizeLines, hf.goto, hf.setTp]
  · unfold State.advanceSettingGain
    rw [hf.tp, hf.cfg, hf.pulse, hf.endOperation]
    rcases s.pulse with ⟨c, u⟩
    split
    · cases c with
      | ok =>
        dsimp only
        by_cases hlt : u.tp + 1 < u.cfg.pulses
        · rw [if_pos (by rwa [hf.tp, hf.cfg]), if_pos hlt, hf.tp]
          exact hf.setTp u _
        · rw [if_neg (by rwa [hf.tp, hf.cfg]), if_neg hlt, hf.tp, ← hf.endOperation]
          exact congrArg (State.endOperation · .ok) (hf.setTp u _)
      | notReady | timingViolation | configError | busy | illegalCommand | historyOverflow | notConstructed =>
        exact hf.endOperation u _
    · rfl
  · unfold State.advancePulsing
    rw [hf.pulse]
    exact hf.endOperation _ _

theorem Commutes.advanceN (n : Nat) (s : State) : advanceN n (f s) = f (advanceN n s) := by
  induction n generalizing s with
  | zero => rfl
  | succ n ih => rw [Machine.advanceN, hf.advance, ih]; rfl

end

/-- FINAL commutes with a map that keeps the lines and the parameters, and with each of the two things FINAL writes. -/
theorem final_commutes {f : State → State} (hlines : ∀ s, (f s).lines = s.lines) (hparams : ∀ s, (f s).params = s.params)
    (hset : ∀ s i g, (f s).setLine i g = f (s.setLine i g)) (hdiag : ∀ s r, (f s).emitDiag r = f (s.emitDiag r))
    (s : State) (i : Nat) : (f s).final i = f (s.final i) := by
  unfold State.final
  rw [hlines, hparams]
  split
  · rfl
  · split
    · rfl
    · dsimp only
      rw [hset, hdiag]
      split
      · rw [hdiag]
      · rw [hdiag]

/-! ### Another port and earlier answers -/

/-- The state with another port and with answers given before its own. -/
def State.presented (port : List Presented) (earlier : List Answer) (s : State) : State :=
  { s with port := port, answers := earlier ++ s.answers }

theorem commutes_presented (port : List Presented) (earlier : List Answer) : Commutes (State.presented port earlier) where
  phase _ := rfl
  running _ := rfl
  poll _ := rfl
  bit _ := rfl
  tp _ := rfl
  cfg _ := rfl
  nlines _ := rfl
  wait _ := rfl
  goto _ _ := rfl
  setTp _ _ := rfl
  endOperation s c := by simp [State.endOperation_eq, State.presented]
  pollOnce s := by rw [State.pollOnce_eq, State.pollOnce_eq]; rfl
  pulse s := by rw [State.pulse_eq, State.pulse_eq]; rfl
  startSampling s := by rw [State.startSampling_eq, State.startSampling_eq]; rfl
  sampleLines s := by rw [State.sampleLines_eq, State.sampleLines_eq]; rfl
  final := final_commutes (fun _ => rfl) (fun _ => rfl) (fun _ _ _ => rfl) fun s r => by
    cases hdbg : s.dbg <;> simp [State.emitDiag, State.presented, hdbg]

theorem stepN_succ {s t : State} (h : step s = .next t) (n : Nat) : stepN (n + 1) s = stepN n t := by
  rw [stepN, h]

/-- Words due at one moment are answered Busy one after another (60_exceptions.md R196). -/
theorem stepN_busyWords (ws : List Word) (rest : List Presented) (s : State) (hp : s.phase ≠ .idle) :
    stepN ws.length { s with port := ws.map (fun w => { word := w, arrival := .afterTurns 0 }) ++ rest } =
      .next
        { s with
          port := rest
          answers := s.answers ++ List.replicate ws.length { ok := false, cause := .busy, res := s.res } } := by
  induction ws generalizing s with
  | nil => simp [stepN]
  | cons w ws ih =>
    have hstep := (stepInProgressAdvances { s with
      port := (w :: ws).map (fun w => { word := w, arrival := .afterTurns 0 }) ++ rest } hp).2.1 w _ rfl
    rw [List.length_cons, stepN_succ hstep]
    refine (ih (onlyBusyAnswer s) hp).trans ?_
    simp [onlyBusyAnswer, List.replicate_succ]

/-- Settles O12: the answers by `stepN_busyWords`; the turn commutes with giving the block another port and earlier answers. -/
theorem busyWordDisturbsNothing : Obligations.BusyWordDisturbsNothing := by
  intro s ws rest hp
  have hturn (port : List Presented) (earlier : List Answer) :
      advance { s with port := port, answers := earlier } =
        (advance { s with answers := [] }).presented port earlier := by
    rw [← (commutes_presented port earlier).advance]
    simp [State.presented]
  have hs : advance s = (advance { s with answers := [] }).presented s.port s.answers := hturn s.port s.answers
  refine ⟨stepN_busyWords ws rest s hp, (advance { s with answers := [] }).answers, by rw [hs]; rfl, ?_⟩
  rw [hturn, hs]
  rfl

/-! ### The debug flag -/

/-- The state with the debug flag off and no diagnostics. -/
def State.blind (s : State) : State := { s with dbg := false, diag := [] }

theorem commutes_blind : Commutes State.blind where
  phase _ := rfl
  running _ := rfl
  poll _ := rfl
  bit _ := rfl
  tp _ := rfl
  cfg _ := rfl
  nlines _ := rfl
  wait _ := rfl
  goto _ _ := rfl
  setTp _ _ := rfl
  endOperation _ _ := rfl
  pollOnce s := by rw [State.pollOnce_eq, State.pollOnce_eq]; rfl
  pulse s := by
    have htrips : s.blind.params.trips (s.blind.env.time 0) = s.params.trips (s.env.time 0) := rfl
    rw [State.pulse_eq, State.pulse_eq, htrips]
    cases s.params.trips (s.env.time 0) <;> rfl
  startSampling s := by rw [State.startSampling_eq, State.startSampling_eq]; rfl
  sampleLines s := by rw [State.sampleLines_eq, State.sampleLines_eq]; rfl
  final := final_commutes (fun _ => rfl) (fun _ => rfl) (fun _ _ _ => rfl) fun s r => by
    have hblind : (s.emitDiag r).blind = s.blind := by
      unfold State.emitDiag
      split <;> rfl
    exact hblind.symm

theorem firstRefusal_blind (s : State) (i : Instr) : firstRefusal s.blind i = firstRefusal s i := by
  cases i <;> rfl

/-- Beginning an instruction, the debug flag shows in itself and the diagnostics only. -/
theorem begun_blind (i : Instr) (s : State) : (begun i s.blind).blind = (begun i s).blind := by
  cases i with
  | prepare | pulse | wrgain | read | resett | sample | decode => rfl
  | construct dbg ch gain =>
    rw [begun, begun, accepted, accepted]
    cases cfgOf ch gain with
    | none => rfl
    | some c =>
      dsimp only
      rw [State.construct_eq, State.construct_eq]
      rfl
  | setcfg ch gain =>
    rw [begun, begun, accepted, accepted]
    cases cfgOf ch gain <;> rfl
  | final line =>
    rw [begun, begun, accepted, accepted, commutes_blind.final]
    rfl

theorem accepted_blind {i : Instr} {s : State} (hp : s.phase = .idle) (hr : firstRefusal s i = none) :
    (accepted i s.blind).blind = (accepted i s).blind := by
  have hr' : firstRefusal s.blind i = none := (firstRefusal_blind s i).trans hr
  rw [← advanceN_begun hp hr, ← advanceN_begun (s := s.blind) hp hr', ← commutes_blind.advanceN,
    ← commutes_blind.advanceN, begun_blind]

/-- Two results that differ in the debug flag and the diagnostics only. -/
def SameButDebug (r r' : Result) : Prop := ∃ t t', r = .next t ∧ r' = .next t' ∧ t'.blind = t.blind

theorem exec_blind (i : Instr) (s : State) : SameButDebug (exec i s) (exec i s.blind) := by
  by_cases hp : s.phase = .idle
  case neg => exact ⟨_, _, exec_busy i hp, exec_busy (s := s.blind) i hp, rfl⟩
  have hr' := firstRefusal_blind s i
  cases hr : firstRefusal s i with
  | some c => exact ⟨_, _, exec_of_refusal hp hr, exec_of_refusal (s := s.blind) hp (hr'.trans hr), rfl⟩
  | none => exact ⟨_, _, exec_of_accept hp hr, exec_of_accept (s := s.blind) hp (hr'.trans hr), accepted_blind hp hr⟩

theorem start_blind (i : Instr) (s : State) : SameButDebug (start i s) (start i s.blind) := by
  by_cases hp : s.phase = .idle
  case neg => exact ⟨_, _, start_busy i hp, start_busy (s := s.blind) i hp, rfl⟩
  have hr' := firstRefusal_blind s i
  cases hr : firstRefusal s i with
  | some c => exact ⟨_, _, start_of_refusal hp hr, start_of_refusal (s := s.blind) hp (hr'.trans hr), rfl⟩
  | none => exact ⟨_, _, start_of_accept hp hr, start_of_accept (s := s.blind) hp (hr'.trans hr), begun_blind i s⟩

theorem progress_blind (s : State) : s.blind.progress = s.progress.blind := by
  unfold State.progress
  have hport : s.blind.port = s.port := rfl
  rw [hport]
  split
  · exact commutes_blind.advance s
  · next p rest _ =>
    split
    · exact commutes_blind.advance s
    · rfl
    · next n _ =>
      exact commutes_blind.advance { s with port := { p with arrival := .afterTurns n } :: rest }

theorem acceptWord_blind (w : Word) (s : State) : SameButDebug (acceptWord w s) (acceptWord w s.blind) := by
  cases hdec : decode w with
  | illegal why => exact ⟨_, _, acceptWord_illegal hdec s, acceptWord_illegal hdec s.blind, rfl⟩
  | legal i =>
    have hearly : s.blind.nextIsEarly = s.nextIsEarly := rfl
    rw [acceptWord_legal hdec, acceptWord_legal hdec, hearly]
    split
    · exact start_blind i s
    · exact exec_blind i s

theorem step_blind (s : State) : SameButDebug (step s) (step s.blind) := by
  by_cases hp : s.phase = .idle
  case neg => exact ⟨_, _, step_not_idle hp, step_not_idle (s := s.blind) hp, by rw [progress_blind]; rfl⟩
  cases hport : s.port with
  | nil => exact ⟨_, _, step_idle_nil hp hport, step_idle_nil (s := s.blind) hp hport, rfl⟩
  | cons p rest =>
    rw [step_idle_cons hp hport, step_idle_cons (s := s.blind) hp hport]
    exact acceptWord_blind p.word { s with port := rest }

theorem eq_of_blind_eq {t t' : State} (h : t'.blind = t.blind) : t' = { t with dbg := t'.dbg, diag := t'.diag } := by
  have hover := congrArg (fun u : State => ({ u with dbg := t'.dbg, diag := t'.diag } : State)) h
  exact hover

/-- Settles O54: both states have the same blind state, so both steps agree with its step but for `DBG` and `diag`. -/
theorem debugFlagHasNoOtherEffect : Obligations.DebugFlagHasNoOtherEffect := by
  intro s dbg diag
  obtain ⟨t, b, ht, hb, htb⟩ := step_blind s
  obtain ⟨t', b', ht', hb', htb'⟩ := step_blind { s with dbg := dbg, diag := diag }
  have hsame : b' = b := Host.Outcome.next.inj (hb'.symm.trans hb)
  exact ⟨t, t', ht, ht', eq_of_blind_eq (htb'.symm.trans ((congrArg State.blind hsame).trans htb))⟩

end Sys2Proof.Machine
end

section
/-! READ.X, the expansion of READ into commands (30_encoding.md R86): each command does what READ does at that place, but for the
registers of position and result and the answers, which the commands write one after another. -/

namespace Sys2Proof.Machine

/-! ### States that differ in position and result only -/

/-- The two states differ in the position, the result registers and the answers only. -/
def Shows (u s : State) : Prop := ∃ c : Control, u = s.withControl c

theorem Shows.refl (s : State) : Shows s s := ⟨s.control, rfl⟩

theorem Shows.symm {u s : State} (h : Shows u s) : Shows s u := by
  obtain ⟨c, rfl⟩ := h
  exact ⟨s.control, rfl⟩

theorem Shows.trans {u s t : State} (h : Shows u s) (h' : Shows s t) : Shows u t := by
  obtain ⟨c, rfl⟩ := h
  obtain ⟨c', rfl⟩ := h'
  exact ⟨c, rfl⟩

theorem shows_endOperation (s : State) (c : Cause) : Shows (s.endOperation c) s := ⟨(s.endOperation c).control, rfl⟩
theorem shows_onlyResult (s : State) (c : Cause) : Shows (onlyResult s c) s := ⟨(onlyResult s c).control, rfl⟩
theorem shows_enter (s : State) (r : Running) (p : Phase) : Shows (s.enter r p) s := ⟨(s.enter r p).control, rfl⟩
theorem shows_goto (s : State) (p : Phase) : Shows (s.goto p) s := ⟨(s.goto p).control, rfl⟩

section

variable {u s : State} (h : Shows u s)
include h

theorem Shows.nlines : u.nlines = s.nlines := by obtain ⟨c, rfl⟩ := h; rfl
theorem Shows.cfg : u.cfg = s.cfg := by obtain ⟨c, rfl⟩ := h; rfl
theorem Shows.lineFull (i : Nat) : u.lineFull i = s.lineFull i := by obtain ⟨c, rfl⟩ := h; rfl

theorem Shows.pulse : u.pulse.1 = s.pulse.1 ∧ Shows u.pulse.2 s.pulse.2 := by
  obtain ⟨c, rfl⟩ := h
  rw [State.pulse_eq, State.pulse_eq]
  exact ⟨rfl, c, rfl⟩

theorem Shows.pollOnce : u.pollOnce.1 = s.pollOnce.1 ∧ Shows u.pollOnce.2 s.pollOnce.2 := by
  obtain ⟨c, rfl⟩ := h
  rw [State.pollOnce_eq, State.pollOnce_eq]
  exact ⟨rfl, { c with poll := c.poll + 1 }, rfl⟩

theorem Shows.wait : Shows u.wait s.wait := by
  obtain ⟨c, rfl⟩ := h
  exact ⟨c, rfl⟩

theorem Shows.resett (i : Nat) : Shows (u.resett i) (s.resett i) := by
  obtain ⟨c, rfl⟩ := h
  exact ⟨c, rfl⟩

theorem Shows.sample (i : Nat) : Shows (u.sample i) (s.sample i) := by
  obtain ⟨c, rfl⟩ := h
  exact ⟨c, rfl⟩

theorem Shows.final (i : Nat) : Shows (u.final i) (s.final i) := by
  obtain ⟨c, rfl⟩ := h
  refine ⟨c, final_commutes (f := (State.withControl · c)) (fun _ => rfl) (fun _ => rfl) (fun _ _ _ => rfl) (fun s r => ?_) s i⟩
  unfold State.emitDiag
  cases hdbg : s.dbg <;> simp [State.withControl, hdbg]

theorem Shows.startPolling : Shows u.startPolling s.startPolling := by
  obtain ⟨c, rfl⟩ := h
  exact ⟨{ c with poll := 0 }, rfl⟩

theorem Shows.setTp (n m : Nat) : Shows { u with tp := n } { s with tp := m } := by
  obtain ⟨c, rfl⟩ := h
  exact ⟨{ c with tp := n }, rfl⟩

end

theorem Shows.prepareLoop (n : Nat) {u s : State} (h : Shows u s) :
    (prepareLoop n u).1 = (prepareLoop n s).1 ∧ Shows (prepareLoop n u).2 (prepareLoop n s).2 := by
  induction n generalizing u s with
  | zero => exact ⟨rfl, h⟩
  | succ n ih =>
    obtain ⟨hready, hpoll⟩ := h.pollOnce
    rw [Machine.prepareLoop, Machine.prepareLoop, hready]
    split
    · exact ⟨rfl, hpoll⟩
    · exact ih hpoll.wait

theorem Shows.wrgainLoop (n : Nat) {u s : State} (h : Shows u s) :
    (wrgainLoop n u).1 = (wrgainLoop n s).1 ∧ Shows (wrgainLoop n u).2 (wrgainLoop n s).2 := by
  induction n generalizing u s with
  | zero => exact ⟨rfl, h⟩
  | succ n ih =>
    obtain ⟨hcause, hpulse⟩ := h.pulse
    have htrips : u.params.trips (u.env.time 0) = s.params.trips (s.env.time 0) := by obtain ⟨c, rfl⟩ := h; rfl
    rw [wrgainLoop_succ, wrgainLoop_succ, htrips]
    split
    · exact ⟨rfl, hpulse⟩
    · exact ih (hpulse.setTp _ _)

theorem Shows.prepare {u s : State} (h : Shows u s) : u.prepare.1 = s.prepare.1 ∧ Shows u.prepare.2 s.prepare.2 :=
  Shows.prepareLoop _ h.startPolling

theorem Shows.wrgain {u s : State} (h : Shows u s) : u.wrgain.1 = s.wrgain.1 ∧ Shows u.wrgain.2 s.wrgain.2 := by
  have hcfg : u.wrgain = Machine.wrgainLoop s.cfg.pulses { u with tp := 0 } := by rw [← h.cfg]; rfl
  rw [hcfg]
  exact Shows.wrgainLoop _ (h.setTp 0 0)

/-! ### Commands one after another -/

/-- From a state that shows `s` the commands all succeed and lead to one that shows `v`. -/
def Passes (is : List Instr) (s v : State) : Prop :=
  ∀ u, Ready u → Shows u s → ∃ t, Ready t ∧ Shows t v ∧ ∀ rest, execSeq (is ++ rest) u = execSeq rest t

/-- From a state that shows `s` a command fails with `c`, and the block stops at a state that shows `v`. -/
def Fails (is : List Instr) (s : State) (c : Cause) (v : State) : Prop :=
  ∀ u, Ready u → Shows u s →
    ∃ t, Ready t ∧ Shows t v ∧ t.ok = false ∧ t.cause = c ∧ ∀ rest, execSeq (is ++ rest) u = .next t

theorem Passes.append {is js : List Instr} {s v w : State} (h : Passes is s v) (h' : Passes js v w) :
    Passes (is ++ js) s w := by
  intro u hu hs
  obtain ⟨t, ht, hv, hrun⟩ := h u hu hs
  obtain ⟨t', ht', hw, hrun'⟩ := h' t ht hv
  exact ⟨t', ht', hw, fun rest => by rw [List.append_assoc, hrun, hrun']⟩

theorem Passes.then_fails {is js : List Instr} {s v w : State} {c : Cause} (h : Passes is s v) (h' : Fails js v c w) :
    Fails (is ++ js) s c w := by
  intro u hu hs
  obtain ⟨t, ht, hv, hrun⟩ := h u hu hs
  obtain ⟨t', ht', hw, hok, hcause, hrun'⟩ := h' t ht hv
  exact ⟨t', ht', hw, hok, hcause, fun rest => by rw [List.append_assoc, hrun, hrun']⟩

theorem Fails.append {is : List Instr} {s v : State} {c : Cause} (h : Fails is s c v) (js : List Instr) :
    Fails (is ++ js) s c v := by
  intro u hu hs
  obtain ⟨t, ht, hv, hok, hcause, hrun⟩ := h u hu hs
  exact ⟨t, ht, hv, hok, hcause, fun rest => by rw [List.append_assoc, hrun]⟩

theorem Passes.nil (s : State) : Passes [] s s := fun u hu hs => ⟨u, hu, hs, fun _ => rfl⟩

/-- One command, by what `exec` gives of every state that shows `s`. -/
theorem Passes.of_exec {i : Instr} {s v : State}
    (h : ∀ u, Ready u → Shows u s → ∃ t, exec i u = .next t ∧ Ready t ∧ Shows t v ∧ t.ok = true) : Passes [i] s v := by
  intro u hu hs
  obtain ⟨t, hexec, ht, hv, hok⟩ := h u hu hs
  exact ⟨t, ht, hv, fun rest => by rw [List.singleton_append, execSeq, hexec]; simp [hok]⟩

theorem Fails.of_exec {i : Instr} {s v : State} {c : Cause}
    (h : ∀ u, Ready u → Shows u s → ∃ t, exec i u = .next t ∧ Ready t ∧ Shows t v ∧ t.ok = false ∧ t.cause = c) :
    Fails [i] s c v := by
  intro u hu hs
  obtain ⟨t, hexec, ht, hv, hok, hcause⟩ := h u hu hs
  exact ⟨t, ht, hv, hok, hcause, fun rest => by rw [List.singleton_append, execSeq, hexec]; simp [hok]⟩

/-! ### The commands of READ.X -/

/-- The end of an operation that left Idle, in the terms of the state READ would be in. -/
theorem ready_endOperation {u s w : State} (hu : Ready u) (h : Moves u w) (hs : Shows w s) (c : Cause) :
    Ready (w.endOperation c) ∧ Shows (w.endOperation c) s :=
  ⟨⟨h.frame.constructed.trans hu.1, rfl⟩, (shows_endOperation w c).trans hs⟩

theorem exec_prepare_shows {u s : State} (hu : Ready u) (hs : Shows u s) :
    ∃ t, exec .prepare u = .next t ∧ Ready t ∧ Shows t s.prepare.2 ∧ t.ok = decide (s.prepare.1 = .ok) ∧
      t.cause = s.prepare.1 := by
  obtain ⟨hcause, hshows⟩ := ((shows_enter u .prepare .preparing).trans hs).prepare
  obtain ⟨ht, hts⟩ := ready_endOperation hu ((u.enter_moves _ _).trans (State.prepare_moves _)) hshows _
  exact ⟨_, exec_prepare_ready hu, ht, hts, by rw [← hcause]; rfl, hcause⟩

theorem exec_pulse_shows {u s : State} (hu : Ready u) (hs : Shows u s) :
    ∃ t, exec .pulse u = .next t ∧ Ready t ∧ Shows t s.pulse.2 ∧ t.ok = decide (s.pulse.1 = .ok) ∧
      t.cause = s.pulse.1 := by
  obtain ⟨hcause, hshows⟩ := ((shows_enter u .pulse .pulsing).trans hs).pulse
  obtain ⟨ht, hts⟩ := ready_endOperation hu ((u.enter_moves _ _).tail (.pulse _)) hshows _
  exact ⟨_, exec_pulse_ready hu, ht, hts, by rw [← hcause]; rfl, hcause⟩

theorem exec_wrgain_shows {u s : State} (hu : Ready u) (hs : Shows u s) :
    ∃ t, exec .wrgain u = .next t ∧ Ready t ∧ Shows t s.wrgain.2 ∧ t.ok = decide (s.wrgain.1 = .ok) ∧
      t.cause = s.wrgain.1 := by
  obtain ⟨hcause, hshows⟩ := ((shows_enter u .wrgain .settingGain).trans hs).wrgain
  obtain ⟨ht, hts⟩ := ready_endOperation hu ((u.enter_moves _ _).trans (State.wrgain_moves _)) hshows _
  exact ⟨_, exec_wrgain_ready hu, ht, hts, by rw [← hcause]; rfl, hcause⟩

theorem passes_resett {s : State} {i : Nat} (hi : i < s.nlines) : Passes [.resett i] s (s.resett i) :=
  .of_exec fun u hu hs => by
    have hiu : i < u.nlines := hs.nlines ▸ hi
    refine ⟨onlyResult (u.resett i) .ok, ?_, ⟨hu.1, hu.2⟩, (shows_onlyResult _ _).trans (hs.resett i), rfl⟩
    rw [exec, execResett, State.acceptLine_ready hu hiu, State.complete_eq]

theorem passes_sample {s : State} {i : Nat} (hi : i < s.nlines) : Passes [.sample i] s (s.sample i) :=
  .of_exec fun u hu hs => by
    have hiu : i < u.nlines := hs.nlines ▸ hi
    exact ⟨_, exec_sample_ready hu hiu, ⟨hu.1, hu.2⟩, (shows_onlyResult _ _).trans (hs.sample i), rfl⟩

theorem exec_final_inRange {u : State} {i : Nat} (hu : Ready u) (hi : i < u.nlines) :
    exec (.final i) u = .next
      (if u.lineFull i then onlyResult u .historyOverflow else onlyResult (u.final i) .ok) := by
  have hl : u.lines[i]? = some u.lines[i] := List.getElem?_eq_getElem hi
  rw [exec_final_ready hu hl, State.lineFull_eq hl]

theorem passes_final {s : State} {i : Nat} (hi : i < s.nlines) (hroom : s.lineFull i = false) :
    Passes [.final i] s (s.final i) :=
  .of_exec fun u hu hs => by
    have hroom' : u.lineFull i = false := (hs.lineFull i).trans hroom
    refine ⟨onlyResult (u.final i) .ok, ?_, ?_, (shows_onlyResult _ _).trans (hs.final i), rfl⟩
    · rw [exec_final_inRange hu (hs.nlines ▸ hi), hroom']
      rfl
    · exact ⟨(Move.final u i).frame.constructed.trans hu.1,
        (State.final_keeps State.phase (fun _ _ _ => rfl) u i).trans hu.2⟩

theorem fails_final {s : State} {i : Nat} (hi : i < s.nlines) (hfull : s.lineFull i = true) :
    Fails [.final i] s .historyOverflow s :=
  .of_exec fun u hu hs => by
    have hfull' : u.lineFull i = true := (hs.lineFull i).trans hfull
    refine ⟨onlyResult u .historyOverflow, ?_, ⟨hu.1, hu.2⟩, (shows_onlyResult _ _).trans hs, rfl, rfl⟩
    rw [exec_final_inRange hu (hs.nlines ▸ hi), hfull']
    rfl

/-- Commands for the first `n` lines in line order, each doing to its line what the fan-out does. -/
theorem passes_lines (mk : Nat → Instr) (f : State → Nat → State) (s : State) (n : Nat)
    (h : ∀ i < n, Passes [mk i] ((List.range i).foldl f s) (f ((List.range i).foldl f s) i)) :
    Passes ((List.range n).map mk) s ((List.range n).foldl f s) := by
  induction n with
  | zero => exact .nil s
  | succ n ih =>
    rw [List.range_succ, List.map_append, List.foldl_concat]
    exact (ih fun i hi => h i (Nat.lt_succ_of_lt hi)).append (h n (Nat.lt_succ_self n))

theorem foldl_nlines {f : State → Nat → State} (h : ∀ s i, Move s (f s i)) (is : List Nat) (s : State) :
    (is.foldl f s).nlines = s.nlines :=
  foldl_frame f State.nlines (fun s i => (h s i).frame.nlines) is s

theorem passes_resetAll (s : State) : Passes (resetAll s.nlines) s (s.eachLine State.resett) :=
  passes_lines .resett State.resett s s.nlines fun _ hi => passes_resett (by rwa [foldl_nlines .resett])

theorem passes_sampleAll (s : State) : Passes (sampleAll s.nlines) s (s.eachLine State.sample) :=
  passes_lines .sample State.sample s s.nlines fun _ hi => passes_sample (by rwa [foldl_nlines .sample])

/-! ### The data pulses -/

theorem Passes.to_shows {is : List Instr} {s v w : State} (h : Passes is s v) (hvw : Shows v w) : Passes is s w := by
  intro u hu hs
  obtain ⟨t, ht, hv, hrun⟩ := h u hu hs
  exact ⟨t, ht, hv.trans hvw, hrun⟩

theorem shows_sampleLines (s : State) : Shows (s.eachLine State.sample) s.sampleLines :=
  Shows.symm ⟨s.sampleLines.control, rfl⟩

theorem Shows.startSampling {u s : State} (h : Shows u s) : Shows u.startSampling s.startSampling := by
  obtain ⟨c, rfl⟩ := h
  rw [State.startSampling_eq, State.startSampling_eq]
  exact ⟨{ c with phase := .sampling, bit := 0 }, rfl⟩

theorem passes_pulse {s : State} (h : s.params.trips (s.env.time 0) = false) : Passes [.pulse] s s.pulse.2 :=
  .of_exec fun _ hu hs => by
    obtain ⟨t, hexec, ht, hts, hok, -⟩ := exec_pulse_shows hu hs
    exact ⟨t, hexec, ht, hts, by rw [hok, State.pulse_passed h]; rfl⟩

theorem fails_pulse {s : State} (h : s.params.trips (s.env.time 0) = true) : Fails [.pulse] s .timingViolation s.pulse.2 :=
  .of_exec fun _ hu hs => by
    obtain ⟨t, hexec, ht, hts, hok, hcause⟩ := exec_pulse_shows hu hs
    exact ⟨t, hexec, ht, hts, by rw [hok, State.pulse_slow h]; rfl, by rw [hcause, State.pulse_slow h]⟩

/-- One data pulse and the sampling of all lines, as commands. -/
theorem passes_pulse_sampleAll {s : State} (h : s.params.trips (s.env.time 0) = false) :
    Passes (.pulse :: sampleAll s.nlines) s s.pulse.2.sampleLines := by
  have hn : s.pulse.2.nlines = s.nlines := (Move.pulse s).frame.nlines
  have hsample := (passes_sampleAll s.pulse.2).to_shows (shows_sampleLines _)
  rw [hn] at hsample
  exact (passes_pulse h).append hsample

/-- The data pulses as commands do what READ's data loop does. -/
theorem dataCommands (k : Nat) (s : State) :
    if (dataLoop k s).1 = .ok then
      Passes (List.replicate k (.pulse :: sampleAll s.nlines)).flatten s (dataLoop k s).2
    else Fails (List.replicate k (.pulse :: sampleAll s.nlines)).flatten s (dataLoop k s).1 (dataLoop k s).2 := by
  induction k generalizing s with
  | zero => exact .nil s
  | succ k ih =>
    rw [dataLoop_succ, List.replicate_succ, List.flatten_cons]
    cases ht : s.params.trips (s.env.time 0) with
    | true => exact ((fails_pulse ht).append (sampleAll s.nlines)).append _
    | false =>
      have hn : s.pulse.2.sampleLines.nlines = s.nlines :=
        (Moves.frame ((Move.pulse s).moves.trans (State.sampleLines_moves _))).nlines
      have hrest := ih s.pulse.2.sampleLines
      have hgroup := passes_pulse_sampleAll ht
      rw [hn] at hrest
      rw [if_neg (show ¬ (false = true) by decide)]
      split
      · next hok =>
        rw [if_pos hok] at hrest
        exact hgroup.append hrest
      · next hok =>
        rw [if_neg hok] at hrest
        exact hgroup.then_fails hrest

end Sys2Proof.Machine
end

section
/-! READ.X as a whole: equal to READ when no history is full, and stopped at the FINAL of the first full line otherwise
(30_encoding.md R86). -/

namespace Sys2Proof.Machine

/-! ### From PREPARE to the last data pulse -/

/-- The commands of READ.X before its FINALs. -/
def readXSampling (n : Nat) : List Instr :=
  [.prepare] ++ resetAll n ++ (List.replicate Config.dataBits (.pulse :: sampleAll n)).flatten

theorem readX_eq (n : Nat) : readX n = readXSampling n ++ (finalAll n ++ [.wrgain]) := by
  simp [readX, readXSampling]

theorem passes_prepare {s v : State} (h : s.prepare = (.ok, v)) : Passes [.prepare] s v :=
  .of_exec fun _ hu hs => by
    obtain ⟨t, hexec, ht, hts, hok, -⟩ := exec_prepare_shows hu hs
    rw [h] at hts hok
    exact ⟨t, hexec, ht, hts, hok⟩

theorem fails_prepare {s v : State} {c : Cause} (h : s.prepare = (c, v)) (hc : c ≠ .ok) : Fails [.prepare] s c v :=
  .of_exec fun _ hu hs => by
    obtain ⟨t, hexec, ht, hts, hok, hcause⟩ := exec_prepare_shows hu hs
    rw [h] at hts hok hcause
    exact ⟨t, hexec, ht, hts, by rw [hok]; exact decide_eq_false hc, hcause⟩

theorem State.prepare_nlines {s v : State} {c : Cause} (h : s.prepare = (c, v)) : v.nlines = s.nlines := by
  have := s.prepare_moves.frame.nlines
  rwa [h] at this

/-- After a successful PREPARE the RESETTs clear the accumulators as READ's entry into Sampling does. -/
theorem passes_reset {s v : State} (h : s.prepare = (.ok, v)) :
    Passes ([.prepare] ++ resetAll s.nlines) s v.startSampling := by
  have hreset := passes_resetAll v
  rw [State.prepare_nlines h] at hreset
  refine (passes_prepare h).append (hreset.to_shows ?_)
  rw [State.startSampling_eq, State.eachLine_resett]
  exact Shows.symm ⟨{ v.control with phase := .sampling, bit := 0 }, rfl⟩

theorem startSampling_nlines {s v : State} (h : s.prepare = (.ok, v)) : v.startSampling.nlines = s.nlines :=
  (v.startSampling_moves.frame.nlines).trans (State.prepare_nlines h)

theorem readXSampling_passes {s u v : State} (h : s.prepare = (.ok, u))
    (hv : dataLoop Config.dataBits u.startSampling = (.ok, v)) : Passes (readXSampling s.nlines) s v := by
  have hdata := dataCommands Config.dataBits u.startSampling
  rw [hv, startSampling_nlines h, if_pos rfl] at hdata
  exact (passes_reset h).append hdata

/-- Where READ ends before Finalizing, READ.X ends with the same cause and contents. -/
theorem readXSampling_fails {s : State} {c : Cause} {v : State} (h : s.read = (c, v)) :
    (c ≠ .ok ∧ Fails (readXSampling s.nlines) s c v) ∨
      ∃ u w, s.prepare = (.ok, u) ∧ dataLoop Config.dataBits u.startSampling = (.ok, w) := by
  rcases hu : s.prepare with ⟨cu, u⟩
  by_cases hcu : cu = .ok
  case neg =>
    rw [State.read_of_notReady hu hcu] at h
    cases h
    exact .inl ⟨hcu, ((fails_prepare hu hcu).append _).append _⟩
  subst hcu
  rcases hw : dataLoop Config.dataBits u.startSampling with ⟨cw, w⟩
  by_cases hcw : cw = .ok
  case neg =>
    have hdata := dataCommands Config.dataBits u.startSampling
    rw [State.read_of_slowData hu hw hcw] at h
    cases h
    rw [hw, startSampling_nlines hu, if_neg hcw] at hdata
    exact .inl ⟨hcw, (passes_reset hu).then_fails hdata⟩
  subst hcw
  exact .inr ⟨u, w, rfl, hw⟩

/-! ### The FINALs -/

/-- The state after FINAL on the first `n` lines, none of which is full: they are appended to and the others are not. -/
def afterFinals (s : State) (n : Nat) : State :=
  { s with
    lines := s.lines.mapIdx fun i l => if i < n then l.append l.acc (decodeRaw l.acc) else l
    diag := diagAfter s (finalRecords n (accOf s.lines)) }

theorem finalFold_first (s : State) (n : Nat) (hn : n ≤ s.nlines) (hroom : ∀ j < n, s.lineFull j = false) :
    (List.range n).foldl State.final s = afterFinals s n := by
  induction n with
  | zero => simp [afterFinals, finalRecords, diagAfter, mapIdx_self]
  | succ n ih =>
    have hlt : n < s.lines.length := hn
    have hfull := hroom n (Nat.lt_succ_self n)
    rw [State.lineFull_eq (List.getElem?_eq_getElem hlt)] at hfull
    have hlines : (afterFinals s n).lines.modify n (fun l => l.append l.acc (decodeRaw l.acc)) =
        (afterFinals s (n + 1)).lines := by
      unfold afterFinals
      dsimp only
      rw [← foldl_modify (fun _ l => l.append l.acc (decodeRaw l.acc)),
        ← foldl_modify (fun _ l => l.append l.acc (decodeRaw l.acc)), List.range_succ, List.foldl_concat]
    rw [List.range_succ, List.foldl_concat, ih (Nat.le_of_succ_le hn) fun j hj => hroom j (Nat.lt_succ_of_lt hj),
      State.final_eq (afterFinals s n) n s.lines[n] (by simp [afterFinals, hlt]) hfull, hlines]
    cases hdbg : s.dbg <;> simp [afterFinals, finalRecords, diagAfter, List.range_succ, accOf, hlt, hdbg]

/-- FINAL on the lines before line `i` leaves line `i` as it was. -/
theorem finalFold_getElem? (s : State) (i : Nat) (hi : i ≤ s.nlines) (hroom : ∀ j < i, s.lineFull j = false) :
    ((List.range i).foldl State.final s).lineFull i = s.lineFull i := by
  rw [finalFold_first s i hi hroom]
  simp only [State.lineFull, afterFinals, List.getElem?_mapIdx]
  cases s.lines[i]? <;> simp

/-- The FINALs of the first `n` lines pass while none of these lines is full. -/
theorem passes_finals (s : State) (n : Nat) (hn : n ≤ s.nlines) (hroom : ∀ j < n, s.lineFull j = false) :
    Passes ((List.range n).map .final) s ((List.range n).foldl State.final s) :=
  passes_lines .final State.final s n fun i hi =>
    passes_final (by rw [foldl_nlines .final]; omega)
      ((finalFold_getElem? s i (by omega) fun j hj => hroom j (hj.trans hi)).trans (hroom i hi))

/-- The FINALs stop at the first full line, the lines before it appended to. -/
theorem fails_finalAll (s : State) (i : Nat) (hi : i < s.nlines) (hroom : ∀ j < i, s.lineFull j = false)
    (hfull : s.lineFull i = true) :
    Fails (finalAll s.nlines) s .historyOverflow ((List.range i).foldl State.final s) := by
  obtain ⟨k, hk⟩ := Nat.exists_eq_add_of_lt hi
  have hsplit : finalAll s.nlines =
      ((List.range i).map .final ++ [.final i]) ++ (List.range k).map (fun j => .final (i + 1 + j)) := by
    rw [finalAll, show s.nlines = i + 1 + k by omega, List.range_add, List.range_succ]
    simp
  rw [hsplit]
  refine ((passes_finals s i (Nat.le_of_lt hi) hroom).then_fails (fails_final ?_ ?_)).append _
  · rwa [foldl_nlines .final]
  · rwa [finalFold_getElem? s i (Nat.le_of_lt hi) hroom]

/-! ### READ.X and READ -/

theorem Shows.finals {u s : State} (h : Shows u s) (is : List Nat) :
    Shows (is.foldl State.final u) (is.foldl State.final s) := by
  induction is generalizing u s with
  | nil => exact h
  | cons i is ih => exact ih (h.final i)

/-- No move but FINAL fills a history: the lines are as full after the data pulses as before PREPARE. -/
theorem lineFull_of_lengths {s v : State} (hparams : v.params = s.params) (hlengths : v.lengths = s.lengths) (i : Nat) :
    v.lineFull i = s.lineFull i := by
  have h := congrArg (·[i]?) hlengths
  simp only [State.lengths, List.getElem?_map] at h
  simp only [State.lineFull, hparams]
  cases hv : v.lines[i]? <;> cases hs : s.lines[i]? <;> simp_all

theorem startSampling_lengths (s : State) : s.startSampling.lengths = s.lengths := by
  rw [State.startSampling_eq]
  simp [State.lengths, Function.comp_def]

theorem sampleLines_lengths (s : State) : s.sampleLines.lengths = s.lengths := by
  rw [State.sampleLines_eq]
  apply List.ext_getElem?
  intro i
  simp [State.lengths, List.getElem?_mapIdx, Function.comp_def]

theorem dataLoop_lengths (n : Nat) (s : State) : (dataLoop n s).2.lengths = s.lengths := by
  have hpulse (s : State) : s.pulse.2.lengths = s.lengths := by rw [State.pulse_eq]; rfl
  induction n generalizing s with
  | zero => rfl
  | succ n ih =>
    rw [dataLoop_succ]
    split
    · exact hpulse s
    · rw [ih, sampleLines_lengths, hpulse]

theorem lineFull_of_data {s u v : State} (h : s.prepare = (.ok, u))
    (hv : dataLoop Config.dataBits u.startSampling = (.ok, v)) (i : Nat) : v.lineFull i = s.lineFull i := by
  have hu := s.prepare_moves
  have hl : s.prepare.2.lines = s.lines := prepareLoop_lines _ _
  have hd := dataLoop_moves Config.dataBits u.startSampling
  have hdl := dataLoop_lengths Config.dataBits u.startSampling
  rw [h] at hu hl
  rw [hv] at hd hdl
  refine lineFull_of_lengths (Moves.frame ((hu.trans u.startSampling_moves).trans hd)).params ?_ i
  rw [hdl, startSampling_lengths, State.lengths, hl]
  rfl

theorem State.lineFull_of_anyFull {s : State} (h : s.anyFull = false) (i : Nat) : s.lineFull i = false := by
  unfold State.lineFull
  split
  · rfl
  · next l hl => exact State.anyFull_false h l (List.mem_of_getElem? hl)

/-- When no history is full, READ.X ends as READ does and shows what READ leaves. -/
theorem execSeq_readX {s u : State} (hu : Ready u) (hus : Shows u s) (hroom : s.anyFull = false) :
    ∃ t, execSeq (readX s.nlines) u = .next t ∧ Ready t ∧ Shows t s.read.2 ∧ t.ok = decide (s.read.1 = .ok) ∧
      t.cause = s.read.1 := by
  rw [readX_eq]
  rcases readXSampling_fails (s := s) rfl with ⟨hc, hfails⟩ | ⟨w, v, hw, hv⟩
  · obtain ⟨t, ht, hts, hok, hcause, hrun⟩ := hfails u hu hus
    exact ⟨t, hrun _, ht, hts, hok.trans (decide_eq_false hc).symm, hcause⟩
  · have hn : v.nlines = s.nlines := by
      have := (dataLoop_moves Config.dataBits w.startSampling).frame.nlines
      rw [hv] at this
      exact this.trans (startSampling_nlines hw)
    have hfinals := passes_finals v v.nlines (Nat.le_refl _) fun j _ =>
      (lineFull_of_data hw hv j).trans (State.lineFull_of_anyFull hroom j)
    rw [hn] at hfinals
    have hshows : Shows ((List.range s.nlines).foldl State.final v) (v.finalizeLines.goto .settingGain) := by
      rw [← hn]
      exact ((shows_goto v .finalizing).symm.finals _).trans (shows_goto _ _).symm
    obtain ⟨t, ht, hts, hrun⟩ := ((readXSampling_passes hw hv).append hfinals) u hu hus
    obtain ⟨t', hexec, ht', hts', hok, hcause⟩ := exec_wrgain_shows ht (hts.trans hshows)
    rw [← State.read_of_data hw hv] at hts' hok hcause
    refine ⟨t', ?_, ht', hts', hok, hcause⟩
    rw [← List.append_assoc]
    refine (hrun [.wrgain]).trans ?_
    rw [execSeq, hexec]
    dsimp only
    split <;> rfl

/-- Settles O36: `execSeq_readX` from the state in which READ has just left Idle. -/
theorem readXIsRead : Obligations.ReadXIsRead := by
  intro s hs hroom
  obtain ⟨u, hrun, hu, hshows, hok, hcause⟩ :=
    execSeq_readX (s := s.enter .read .preparing) hs (shows_enter s .read .preparing).symm hroom
  refine ⟨_, u, exec_read_ready hs hroom, hrun, ?_⟩
  obtain ⟨c, hc⟩ := hshows.trans (shows_endOperation _ (s.enter .read .preparing).read.1).symm
  have hphase : u.phase = s.runRead.phase := hu.2
  rw [hok, hcause, hphase]
  subst hc
  exact ⟨rfl, rfl, rfl, rfl, rfl, rfl, rfl, rfl, rfl, rfl, rfl, rfl⟩

/-! ### READ.X on a full history -/

/-- The state in which READ has taken its 24 samples per line. -/
def afterSampling (s : State) (q : Nat) : State :=
  { s with
    clk := .low
    phase := .sampling
    poll := q + 1
    bit := 24
    lines := sampledLines s ((q + 1) * s.nlines) 24
    env := s.env.skip ((q + 1 + 24) * s.nlines) 24
    trace := s.trace ++ readyTrace s.env s.nlines q ++ dataGroups s.env s.nlines ((q + 1) * s.nlines) 24 }

theorem dataLoop_sampled {s : State} {q : Nat} (hpass : ∀ m < 24, s.params.trips (s.env.time m) = false) :
    dataLoop Config.dataBits (State.startSampling
      { s with
        clk := .low
        poll := q + 1
        env := s.env.skip ((q + 1) * s.nlines) 0
        trace := s.trace ++ readyTrace s.env s.nlines q }) = (.ok, afterSampling s q) := by
  rw [State.startSampling_eq, dataLoop_all _ _ (by simpa [Config.dataBits] using hpass)]
  simp [afterDataPulses, afterSampling, sampledLines, shifted_lines, State.nlines, Config.dataBits, dataGroups_skip,
    Nat.add_mul]

/-- READ.X from PREPARE to its last sample, as a function of the draws. -/
theorem readXSampling_sampled {s : State} {q : Nat} (hq : q < 20) (hfailed : ∀ j < q, pollReady s.env s.nlines j = false)
    (hready : pollReady s.env s.nlines q = true) (hpass : ∀ m < 24, s.params.trips (s.env.time m) = false) :
    Passes (readXSampling s.nlines) s (afterSampling s q) :=
  readXSampling_passes (s.prepare_ready q hq hfailed hready) (dataLoop_sampled hpass)

/-- A slow data pulse stops READ.X where it stops READ (40_sequencer.md R105, exit E2). -/
theorem readXSampling_slowData {s : State} {q k : Nat} (hq : q < 20)
    (hfailed : ∀ j < q, pollReady s.env s.nlines j = false) (hready : pollReady s.env s.nlines q = true) (hk : k < 24)
    (hpass : ∀ m < k, s.params.trips (s.env.time m) = false) (hslow : s.params.trips (s.env.time k) = true) :
    Fails (readXSampling s.nlines) s s.read.1 s.read.2 := by
  rcases readXSampling_fails (s := s) rfl with ⟨-, h⟩ | ⟨u, w, hu, hw⟩
  · exact h
  · rw [s.prepare_ready q hq hfailed hready] at hu
    cases hu
    rw [State.startSampling_eq, dataLoop_slow _ k Config.dataBits hk (by simpa using hslow) (by simpa using hpass)] at hw
    cases hw

theorem afterSampling_lineFull (s : State) (q i : Nat) : (afterSampling s q).lineFull i = s.lineFull i := by
  refine lineFull_of_lengths (s := s) (v := afterSampling s q) rfl ?_ i
  apply List.ext_getElem?
  intro k
  simp [State.lengths, afterSampling, sampledLines, List.getElem?_mapIdx, Function.comp_def]

/-- The lines when the FINALs stopped at line `i` (30_encoding.md R86). -/
theorem afterFinals_lines (s : State) (q i : Nat) :
    (afterFinals (afterSampling s q) i).lines =
      s.lines.mapIdx fun j m =>
        if j < i then
          { m with
            acc := sampledRaw s.env s.nlines ((q + 1) * s.nlines) j 24
            rawHist := m.rawHist ++ [sampledRaw s.env s.nlines ((q + 1) * s.nlines) j 24]
            signedHist := m.signedHist ++ [.int (sampledRaw s.env s.nlines ((q + 1) * s.nlines) j 24).toInt] }
        else { m with acc := sampledRaw s.env s.nlines ((q + 1) * s.nlines) j 24 } := by
  apply List.ext_getElem?
  intro k
  simp only [afterFinals, afterSampling, sampledLines, List.mapIdx_mapIdx, List.getElem?_mapIdx, Function.comp_def]
  cases s.lines[k]? with
  | none => rfl
  | some l => by_cases hk : k < i <;> simp [hk, Line.append, decodeRaw_eq_toInt]

theorem afterFinals_diag (s : State) (q : Nat) {i : Nat} (hi : i ≤ s.nlines) :
    (afterFinals (afterSampling s q) i).diag =
      diagAfter s (finalRecords i fun j => sampledRaw s.env s.nlines ((q + 1) * s.nlines) j 24) := by
  have hrec : finalRecords i (accOf (afterSampling s q).lines) =
      finalRecords i fun j => sampledRaw s.env s.nlines ((q + 1) * s.nlines) j 24 := by
    apply finalRecords_congr
    intro j hj
    have hlt : j < s.lines.length := hj.trans_le hi
    simp [accOf, afterSampling, sampledLines, hlt]
  rw [← hrec]
  rfl

/-- Settles O59: READ refuses at its entry test; READ.X stops at PREPARE, at the slow data pulse, or at the FINAL of line `i`. -/
theorem readXStopsAtTheFullLine : Obligations.ReadXStopsAtTheFullLine := by
  intro s i d l hs hd hl hlen hroom
  have hi : i < s.nlines := State.lt_nlines hl
  have hfull : s.lineFull i = true := by rw [State.lineFull_eq hl, hlen, Params.full_of_hdepth hd]
  have hany : s.anyFull = true :=
    List.any_eq_true.mpr ⟨l, List.mem_of_getElem? hl, by rw [hlen, Params.full_of_hdepth hd]⟩
  refine ⟨exec_read_full hs hany, fun hfailed => ?_, fun q hq hfailed hready => ⟨fun k hk hpass hslow => ?_, fun hpass => ?_⟩⟩
  · have hfails := (fails_prepare (s.prepare_exhausted hfailed) (by decide)).append (resetAll s.nlines)
    obtain ⟨u, hu, ⟨c, rfl⟩, hok, hcause, hrun⟩ := (hfails.append _) s hs (.refl s)
    rw [readX_eq]
    exact ⟨_, hrun _, hok, hcause, rfl, hu.2, ⟨rfl, rfl, rfl, rfl, rfl⟩, rfl, rfl, rfl, rfl, rfl⟩
  · have hfails := readXSampling_slowData hq hfailed hready hk hpass hslow
    rw [s.read_slowData q k hq hfailed hready hk hpass hslow] at hfails
    obtain ⟨u, hu, ⟨c, rfl⟩, hok, hcause, hrun⟩ := hfails s hs (.refl s)
    rw [readX_eq]
    exact ⟨_, hrun _, hok, hcause, rfl, hu.2, ⟨rfl, rfl, rfl, rfl, rfl⟩, rfl, rfl, rfl, rfl, rfl⟩
  · have hn : (afterSampling s q).nlines = s.nlines := by simp [State.nlines, afterSampling, sampledLines]
    have hroom' : ∀ j < i, (afterSampling s q).lineFull j = false := fun j hj =>
      (afterSampling_lineFull s q j).trans (hroom j hj)
    have hfinals := fails_finalAll (afterSampling s q) i (hn.symm ▸ hi) hroom' ((afterSampling_lineFull s q i).trans hfull)
    rw [finalFold_first _ i (hn.symm ▸ hi.le) hroom', hn] at hfinals
    obtain ⟨u, hu, ⟨c, rfl⟩, hok, hcause, hrun⟩ :=
      ((readXSampling_sampled hq hfailed hready hpass).then_fails hfinals) s hs (.refl s)
    rw [readX_eq, ← List.append_assoc]
    exact ⟨_, hrun _, hok, hcause, rfl, hu.2, ⟨rfl, rfl, rfl, rfl, rfl⟩, rfl, rfl, rfl, afterFinals_lines s q i,
      afterFinals_diag s q hi.le⟩

end Sys2Proof.Machine
end
